-- ==== Sys2Proof/Word.lean ====
section
/-! DEFINITION. The two bit-vector types of the engine (00_scope R10, R11) and the type of a register array. -/

namespace Sys2Proof

/-- A 32-bit register word or bus word (10_state R32). -/
abbrev Word := BitVec 32

/-- A field element, a byte lane or an 8-bit register field (41_gf R170, 00_scope R10). -/
abbrev Byte := BitVec 8

/-- A register array `X[0..n-1]` of 32-bit words (00_scope R13), with the proof that it has `n` words. -/
structure Bank (n : Nat) where
  words : List Word
  length_eq : words.length = n
  deriving DecidableEq, Repr

end Sys2Proof
end

