-- ==== Sys2Proof/Config.lean ====
section
/-! DEFINITION. What an instance fixes (00_scope R8) and the free value of a read in progress (10_state R61). -/

namespace Sys2Proof

/-- The parameters of an instance (00_scope R8). They stand beside the state because a meaning takes
no other argument; no step changes them (notes/assumptions/2.md). -/
structure Params where
  /-- `PKE_MAX_LIMBS`, legal 1..256. -/
  maxLimbs : Nat
  /-- `BASE`, the bus address of the register window, a multiple of 0x4000. -/
  base : Nat
  /-- `IRQ_LINE`, the input of the platform's interrupt controller that the IRQ output drives. -/
  irqLine : Nat
  deriving DecidableEq, Repr

/-- Bytes of the register window (00_scope R8). -/
abbrev windowBytes : Nat := 0x4000

/-- The legal parameters (00_scope R8). -/
abbrev Params.Legal (p : Params) : Prop := 1 ≤ p.maxLimbs ∧ p.maxLimbs ≤ 256 ∧ p.base % windowBytes = 0

/-- The default instance: `PKE_MAX_LIMBS` as 00_scope R8 gives it.
DESIGN CHOICE (notes/assumptions/2.md): `BASE` and `IRQ_LINE`, which R8 leaves OPEN. -/
def Params.default : Params := { maxLimbs := 128, base := 0, irqLine := 0 }

/-- `draw()` of 10_state R61: the value of the k-th read of a register that a running command will
write. A FREE VALUE (notes/assumptions/1.md): it has no body, so no proof can know it. -/
opaque Config.draw : Nat → Word

end Sys2Proof
end

