-- ==== Sys2Proof/Syntax.lean ====
section
/-! DEFINITION. The engine's commands as syntax: one constructor per row of spec/opcode_table.json (30_encoding R114). -/

namespace Sys2Proof

/-- A command. Operands are implicit registers (30_encoding R111); the two commands with an
immediate carry it as the number the assembly statement writes (30_encoding R112, R120). -/
inductive Instr where
  | nop
  | modexp
  | rsaCrypt
  | modmul
  | montmul
  | gfadd
  | gfmul
  | gfinv
  | tblGen
  | aesExpand (kl : Nat)
  | aesEnc
  | aesDec
  | aesSubBytes
  | aesInvSubBytes
  | aesShiftRows
  | aesInvShiftRows
  | aesMixColumns
  | aesInvMixColumns
  | aesAddRoundKey (round : Nat)
  | shaInit
  | shaCompress
  | shaSchedule
  deriving DecidableEq, Repr

end Sys2Proof
end

