-- ==== Sys2Proof/WellFormed.lean ====
section
/-! DEFINITION. Which command statements are well formed (30_encoding R120: an immediate out of 0..255 is an assembly error). -/

namespace Sys2Proof

/-- The assembler's check of 30_encoding R120: an immediate fits IMM8. -/
def Instr.wellFormed : Instr → Bool
  | .nop => true
  | .modexp => true
  | .rsaCrypt => true
  | .modmul => true
  | .montmul => true
  | .gfadd => true
  | .gfmul => true
  | .gfinv => true
  | .tblGen => true
  | .aesExpand kl => decide (kl ≤ 255)
  | .aesEnc => true
  | .aesDec => true
  | .aesSubBytes => true
  | .aesInvSubBytes => true
  | .aesShiftRows => true
  | .aesInvShiftRows => true
  | .aesMixColumns => true
  | .aesInvMixColumns => true
  | .aesAddRoundKey round => decide (round ≤ 255)
  | .shaInit => true
  | .shaCompress => true
  | .shaSchedule => true

/-- `Instr.wellFormed` as a proposition. -/
abbrev Instr.WellFormed (i : Instr) : Prop := i.wellFormed = true

end Sys2Proof
end

