-- ==== Sys2Proof/Decode.lean ====
section
/-! DEFINITION. The command format, the decoder of a submitted word and the encoder (30_encoding R110-R117, R120). -/

namespace Sys2Proof

/-- Why a word is no command (30_encoding R117). -/
inductive DecodeError where
  /-- `c[7:0]` is no opcode of 30_encoding R114. -/
  | illegalOpc
  /-- `c[31:16]` is not zero, or IMM8 is not zero for a command without an immediate (30_encoding R113). -/
  | reservedField
  deriving DecidableEq, Repr

/-- The field OPC, bits 7:0 (30_encoding R110). -/
def opcField (c : Word) : Byte := c.extractLsb' 0 8

/-- The field IMM8, bits 15:8 (30_encoding R110, R112). -/
def immField (c : Word) : Byte := c.extractLsb' 8 8

/-- The field RSV, bits 31:16 (30_encoding R110). -/
def rsvField (c : Word) : BitVec 16 := c.extractLsb' 16 16

/-- The opcode column of 30_encoding R114. -/
def Instr.opcode : Instr → Byte
  | .nop => 0x00
  | .modexp => 0x10
  | .rsaCrypt => 0x11
  | .modmul => 0x12
  | .montmul => 0x13
  | .gfadd => 0x20
  | .gfmul => 0x21
  | .gfinv => 0x22
  | .tblGen => 0x23
  | .aesExpand _ => 0x30
  | .aesEnc => 0x31
  | .aesDec => 0x32
  | .aesSubBytes => 0x33
  | .aesInvSubBytes => 0x34
  | .aesShiftRows => 0x35
  | .aesInvShiftRows => 0x36
  | .aesMixColumns => 0x37
  | .aesInvMixColumns => 0x38
  | .aesAddRoundKey _ => 0x39
  | .shaInit => 0x40
  | .shaCompress => 0x41
  | .shaSchedule => 0x42

/-- The immediate a command carries; 0 for a command without one (30_encoding R110). -/
def Instr.imm : Instr → Nat
  | .aesExpand kl => kl
  | .aesAddRoundKey round => round
  | _ => 0

/-- The commands with an immediate, opcodes 0x30 and 0x39 (30_encoding R110, R117). -/
def Instr.takesImm : Instr → Bool
  | .aesExpand _ => true
  | .aesAddRoundKey _ => true
  | _ => false

/-- The command that an opcode selects (30_encoding R114), none for the illegal opcodes of R115. -/
def commandOf (opc : Byte) (imm : Nat) : Option Instr :=
  match opc.toNat with
  | 0x00 => some .nop
  | 0x10 => some .modexp
  | 0x11 => some .rsaCrypt
  | 0x12 => some .modmul
  | 0x13 => some .montmul
  | 0x20 => some .gfadd
  | 0x21 => some .gfmul
  | 0x22 => some .gfinv
  | 0x23 => some .tblGen
  | 0x30 => some (.aesExpand imm)
  | 0x31 => some .aesEnc
  | 0x32 => some .aesDec
  | 0x33 => some .aesSubBytes
  | 0x34 => some .aesInvSubBytes
  | 0x35 => some .aesShiftRows
  | 0x36 => some .aesInvShiftRows
  | 0x37 => some .aesMixColumns
  | 0x38 => some .aesInvMixColumns
  | 0x39 => some (.aesAddRoundKey imm)
  | 0x40 => some .shaInit
  | 0x41 => some .shaCompress
  | 0x42 => some .shaSchedule
  | _ => none

/-- The decoder of 30_encoding R117, total on all 2^32 words, with its order of checks: the opcode,
then RSV, then IMM8 of a command without an immediate. -/
def decode (c : Word) : Except DecodeError Instr :=
  match commandOf (opcField c) (immField c).toNat with
  | none => .error .illegalOpc
  | some i =>
    if rsvField c ≠ 0 then .error .reservedField
    else if i.takesImm = false ∧ immField c ≠ 0 then .error .reservedField
    else .ok i

/-- The word of a command: RSV, IMM8, OPC from the top bit down (30_encoding R110, R120). -/
def encode (i : Instr) : Word := (0 : BitVec 16) ++ BitVec.ofNat 8 i.imm ++ i.opcode

/-- A row of the opcode map: a word selects the row when its bits under `mask` are `pattern`
(the columns "match" and "mask" of 30_encoding R114). -/
structure OpcodeRow where
  mnemonic : String
  pattern : Word
  mask : Word
  deriving DecidableEq, Repr

/-- The opcode map of 30_encoding R114, the units NOP, PKE and GFU. -/
def opcodeRowsPkeGf : List OpcodeRow :=
  [ ⟨"NOP", 0x00, 0xFFFFFFFF⟩, ⟨"MODEXP", 0x10, 0xFFFFFFFF⟩, ⟨"RSA_CRYPT", 0x11, 0xFFFFFFFF⟩,
    ⟨"MODMUL", 0x12, 0xFFFFFFFF⟩, ⟨"MONTMUL", 0x13, 0xFFFFFFFF⟩, ⟨"GFADD", 0x20, 0xFFFFFFFF⟩,
    ⟨"GFMUL", 0x21, 0xFFFFFFFF⟩, ⟨"GFINV", 0x22, 0xFFFFFFFF⟩, ⟨"TBL_GEN", 0x23, 0xFFFFFFFF⟩ ]

/-- The opcode map of 30_encoding R114, the units AES and SHA. -/
def opcodeRowsAesSha : List OpcodeRow :=
  [ ⟨"AES_EXPAND", 0x30, 0xFFFF00FF⟩, ⟨"AES_ENC", 0x31, 0xFFFFFFFF⟩, ⟨"AES_DEC", 0x32, 0xFFFFFFFF⟩,
    ⟨"AES_SUBBYTES", 0x33, 0xFFFFFFFF⟩, ⟨"AES_INVSUBBYTES", 0x34, 0xFFFFFFFF⟩,
    ⟨"AES_SHIFTROWS", 0x35, 0xFFFFFFFF⟩, ⟨"AES_INVSHIFTROWS", 0x36, 0xFFFFFFFF⟩,
    ⟨"AES_MIXCOLUMNS", 0x37, 0xFFFFFFFF⟩, ⟨"AES_INVMIXCOLUMNS", 0x38, 0xFFFFFFFF⟩,
    ⟨"AES_ADDROUNDKEY", 0x39, 0xFFFF00FF⟩, ⟨"SHA_INIT", 0x40, 0xFFFFFFFF⟩,
    ⟨"SHA_COMPRESS", 0x41, 0xFFFFFFFF⟩, ⟨"SHA_SCHEDULE", 0x42, 0xFFFFFFFF⟩ ]

/-- The whole opcode map of 30_encoding R114, in the table's order. -/
def opcodeRows : List OpcodeRow := opcodeRowsPkeGf ++ opcodeRowsAesSha

/-- Whether a word has a row's match under its mask (30_encoding R114). -/
def OpcodeRow.selects (r : OpcodeRow) (c : Word) : Bool := c &&& r.mask == r.pattern

/-- A command's mnemonic (30_encoding R114, R120). -/
def Instr.mnemonic : Instr → String
  | .nop => "NOP"
  | .modexp => "MODEXP"
  | .rsaCrypt => "RSA_CRYPT"
  | .modmul => "MODMUL"
  | .montmul => "MONTMUL"
  | .gfadd => "GFADD"
  | .gfmul => "GFMUL"
  | .gfinv => "GFINV"
  | .tblGen => "TBL_GEN"
  | .aesExpand _ => "AES_EXPAND"
  | .aesEnc => "AES_ENC"
  | .aesDec => "AES_DEC"
  | .aesSubBytes => "AES_SUBBYTES"
  | .aesInvSubBytes => "AES_INVSUBBYTES"
  | .aesShiftRows => "AES_SHIFTROWS"
  | .aesInvShiftRows => "AES_INVSHIFTROWS"
  | .aesMixColumns => "AES_MIXCOLUMNS"
  | .aesInvMixColumns => "AES_INVMIXCOLUMNS"
  | .aesAddRoundKey _ => "AES_ADDROUNDKEY"
  | .shaInit => "SHA_INIT"
  | .shaCompress => "SHA_COMPRESS"
  | .shaSchedule => "SHA_SCHEDULE"

/-- The host's numbering of a table row's bits: the engine has one 32-bit word per command
(30_encoding R110) and no byte order for it (20_memory R82), so the row's bits are the word's bits. -/
def tableWord (nbits w : Nat) : Word := BitVec.ofNat 32 (w % 2 ^ nbits)

/-- What the decoder reads from a table row's word; none where it rejects. -/
def decodeTableWord (nbits w : Nat) : Option Instr := (decode (tableWord nbits w)).toOption

end Sys2Proof
end

