-- ==== Sys2Proof/Machine/Bank.lean ====
section
/-! DEFINITION. Reading, writing and building register arrays (00_scope R13) and the byte lanes of a word (00_scope R10, 20_memory R80). -/

namespace Sys2Proof

/-- `X[i]` (00_scope R13). -/
def Bank.get {n : Nat} (b : Bank n) (i : Fin n) : Word := b.words.get (i.cast b.length_eq.symm)

/-- `X[i] <- v` (00_scope R13). -/
def Bank.set {n : Nat} (b : Bank n) (i : Fin n) (v : Word) : Bank n :=
  { words := b.words.set i.val v, length_eq := by rw [List.length_set]; exact b.length_eq }

/-- The array whose word `i` is `f i`. -/
def Bank.ofFn {n : Nat} (f : Fin n → Word) : Bank n :=
  { words := List.ofFn f, length_eq := List.length_ofFn }

/-- The array of zeros, the reset value of every data array (10_state R58). -/
def Bank.zero (n : Nat) : Bank n :=
  { words := List.replicate n 0, length_eq := List.length_replicate }

/-- `X[k]`, and 0 where the array has no word `k`. -/
def Bank.getD {n : Nat} (b : Bank n) (k : Nat) : Word := b.words.getD k 0

/-- Byte lane `j` of a word: lane 0 is bits 31:24, lane 3 is bits 7:0 (00_scope R10). -/
def lane (w : Word) (j : Nat) : Byte := w.extractLsb' (24 - 8 * j) 8

/-- The word of four bytes, lane 0 first (20_memory R80). -/
def packBytes (b0 b1 b2 b3 : Byte) : Word := b0 ++ b1 ++ b2 ++ b3

/-- A function applied to each byte lane of a word. -/
def mapLanes (f : Byte → Byte) (w : Word) : Word :=
  packBytes (f (lane w 0)) (f (lane w 1)) (f (lane w 2)) (f (lane w 3))

end Sys2Proof
end

