-- ==== Sys2Proof/Machine/GfField.lean ====
section
/-! DEFINITION. GF(2^8) arithmetic, the affine map, the S-boxes and the round constants (41_gf R170-R178, R184, R185). -/

namespace Sys2Proof

/-- Multiplication by x modulo x^8+x^4+x^3+x+1 (41_gf R171). -/
def xtime (a : Byte) : Byte := (a <<< 1) ^^^ (if a.getLsbD 7 then 0x1B else 0x00)

/-- One turn of the loop of 41_gf R172 on (p, a), for bit `i` of `b`. -/
def gfmulTurn (b : Byte) (pa : Byte × Byte) (i : Nat) : Byte × Byte :=
  (if b.getLsbD i then pa.1 ^^^ pa.2 else pa.1, xtime pa.2)

/-- Multiplication in GF(2^8) (41_gf R172). -/
def gfmul (a b : Byte) : Byte := ((List.range 8).foldl (gfmulTurn b) (0, a)).1

/-- Addition in GF(2^8) (41_gf R173). -/
def gfadd (a b : Byte) : Byte := a ^^^ b

/-- Squaring in GF(2^8), a step of the computation of 41_gf R174. -/
def gfsq (a : Byte) : Byte := gfmul a a

/-- Inversion in GF(2^8), with 0 to 0: a^254, the computation 41_gf R174 gives, as the product of
a^2, a^4, ..., a^128. -/
def gfinv (a : Byte) : Byte :=
  let a2 := gfsq a
  let a4 := gfsq a2
  let a8 := gfsq a4
  let a16 := gfsq a8
  let a32 := gfsq a16
  let a64 := gfsq a32
  let a128 := gfsq a64
  gfmul (gfmul (gfmul (gfmul (gfmul (gfmul a128 a64) a32) a16) a8) a4) a2

/-- Bit `i` of the affine transformation (41_gf R175, c = 0x63). -/
def affineBit (b : Byte) (i : Nat) : Bool :=
  ((((b.getLsbD i ^^ b.getLsbD ((i + 4) % 8)) ^^ b.getLsbD ((i + 5) % 8)) ^^ b.getLsbD ((i + 6) % 8))
    ^^ b.getLsbD ((i + 7) % 8)) ^^ (0x63 : Byte).getLsbD i

/-- The affine transformation (41_gf R175). -/
def affine (b : Byte) : Byte :=
  BitVec.ofBool (affineBit b 7) ++ BitVec.ofBool (affineBit b 6) ++ BitVec.ofBool (affineBit b 5)
    ++ BitVec.ofBool (affineBit b 4) ++ BitVec.ofBool (affineBit b 3) ++ BitVec.ofBool (affineBit b 2)
    ++ BitVec.ofBool (affineBit b 1) ++ BitVec.ofBool (affineBit b 0)

/-- The S-box (41_gf R176). -/
def sbox (x : Byte) : Byte := affine (gfinv x)

/-- The rows of 41_gf R184: row `hi` lists the values at 16*hi + 0 ... 16*hi + 15, first value first. -/
def sboxRows : List (BitVec 128) :=
  [ 0x637c777bf26b6fc53001672bfed7ab76, 0xca82c97dfa5947f0add4a2af9ca472c0,
    0xb7fd9326363ff7cc34a5e5f171d83115, 0x04c723c31896059a071280e2eb27b275,
    0x09832c1a1b6e5aa0523bd6b329e32f84, 0x53d100ed20fcb15b6acbbe394a4c58cf,
    0xd0efaafb434d338545f9027f503c9fa8, 0x51a3408f929d38f5bcb6da2110fff3d2,
    0xcd0c13ec5f974417c4a77e3d645d1973, 0x60814fdc222a908846eeb814de5e0bdb,
    0xe0323a0a4906245cc2d3ac629195e479, 0xe7c8376d8dd54ea96c56f4ea657aae08,
    0xba78252e1ca6b4c6e8dd741f4bbd8b8a, 0x703eb5664803f60e613557b986c11d9e,
    0xe1f8981169d98e949b1e87e9ce5528df, 0x8ca1890dbfe6426841992d0fb054bb16 ]

/-- The rows of 41_gf R185. -/
def invSboxRows : List (BitVec 128) :=
  [ 0x52096ad53036a538bf40a39e81f3d7fb, 0x7ce339829b2fff87348e4344c4dee9cb,
    0x547b9432a6c2233dee4c950b42fac34e, 0x082ea16628d924b2765ba2496d8bd125,
    0x72f8f66486689816d4a45ccc5d65b692, 0x6c704850fdedb9da5e154657a78d9d84,
    0x90d8ab008cbcd30af7e45805b8b34506, 0xd02c1e8fca3f0f02c1afbd0301138a6b,
    0x3a9111414f67dcea97f2cfcef0b4e673, 0x96ac7422e7ad3585e2f937e81c75df6e,
    0x47f11a711d29c5896fb7620eaa18be1b, 0xfc563e4bc6d279209adbc0fe78cd5af4,
    0x1fdda8338807c731b11210592780ec5f, 0x60517fa919b54a0d2de57a9f93c99cef,
    0xa0e03b4dae2af5b0c8ebbb3c83539961, 0x172b047eba77d626e169146355210c7d ]

/-- The value a table of 16 rows lists at `x` = 16*hi + lo (the layout of 41_gf R184). -/
def listedByte (rows : List (BitVec 128)) (x : Byte) : Byte :=
  (rows.getD (x.toNat / 16) 0).extractLsb' (8 * (15 - x.toNat % 16)) 8

/-- The S-box as 41_gf R184 lists it. -/
def sboxListed (x : Byte) : Byte := listedByte sboxRows x

/-- The inverse S-box (41_gf R177, with its values in R185). -/
def invSbox (y : Byte) : Byte := listedByte invSboxRows y

/-- The round constant `rc_(k+1)` = x^k (41_gf R178). -/
def rcFrom : Nat → Byte
  | 0 => 0x01
  | k + 1 => xtime (rcFrom k)

/-- The round-constant word `Rcon[i]` = rc_i << 24 for i >= 1; 0 at 0 (41_gf R178, R179). -/
def rconWord (i : Nat) : Word := if i = 0 then 0 else packBytes (rcFrom (i - 1)) 0 0 0

end Sys2Proof
end

