-- ==== Sys2Proof/Machine/State.lean ====
section
/-! DEFINITION. The state of the engine and of its two agents (10_state R30, 00_scope R17), the reasons a step can stop, and the state after the reset sequence (10_state R58). -/

namespace Sys2Proof.Machine

/-- The sequencer's state (10_state R60). An accepted command word decodes to exactly one command
(30_encoding R117) and is that command's encoding, so the command stands for the word
(notes/assumptions/7.md). -/
inductive Seq where
  | idle
  /-- BUSY(c) for an accepted command. -/
  | busy (c : Instr)
  /-- BUSY(TBLGEN_RESET), the internal command of 70_reset_and_hazards R362. -/
  | tblgenReset
  deriving DecidableEq, Repr

/-- The error names of 60_exceptions R321. -/
inductive ErrCode where
  | illegalOpc
  | reservedField
  | busy
  | pkeBadLen
  | pkeZeroModulus
  | pkeMsgTooLarge
  | pkeEvenModulus
  | pkeOperandRange
  | aesBadKeylen
  | aesNoKey
  | aesBadRound
  deriving DecidableEq, Repr

/-- A register word of the window by name (10_state R32). -/
inductive Loc where
  | id
  | config
  | ctrl
  | status
  | cmd
  | errcode
  | pkeLen
  | gfA
  | gfB
  | gfRes
  | aesKey (i : Fin 8)
  | aesData (i : Fin 4)
  | shaH (i : Fin 8)
  | shaW (i : Fin 16)
  | shaSched (i : Fin 64)
  | aesRk (i : Fin 60)
  | sbox (i : Fin 256)
  | invSbox (i : Fin 256)
  | rcon (i : Fin 16)
  | pkeA (i : Fin 256)
  | pkeB (i : Fin 256)
  | pkeE (i : Fin 256)
  | pkeN (i : Fin 256)
  | pkeR (i : Fin 256)
  deriving DecidableEq, Repr

/-- The registers that commands write (10_state R61), STATUS fields apart. -/
inductive ResultReg where
  | pkeR
  | gfRes
  | sbox
  | invSbox
  | rcon
  | aesRk
  | aesData
  | shaH
  | shaSched
  deriving DecidableEq, Repr

/-- CTRL, the DONE, ERR and WIB bits of STATUS, CMD_LAST, ERRCODE, `seq` and IRQ
(10_state R35-R38, R57, R60). -/
structure Control where
  ie : Bool
  done : Bool
  err : Bool
  wib : Bool
  cmdLast : Word
  errCode : Byte
  errOpc : Byte
  seq : Seq
  irq : Bool
  deriving DecidableEq, Repr

/-- PKE_LEN.L and the five operand and result arrays (10_state R39, R43, R44). Each array has 256
slots; the slots at `maxLimbs` and above do not exist and are never read or written through the
window (10_state R54). -/
structure PkeUnit where
  len : BitVec 16
  a : Bank 256
  b : Bank 256
  e : Bank 256
  n : Bank 256
  r : Bank 256
  deriving DecidableEq, Repr

/-- GF_A, GF_B and GF_RES (10_state R40-R42). -/
structure GfUnit where
  a : Byte
  b : Byte
  res : Byte
  deriving DecidableEq, Repr

/-- The tables SBOX, INV_SBOX, RCON and STATUS.TABLES_READY (10_state R51-R53, R36). -/
structure Tables where
  sbox : Bank 256
  invSbox : Bank 256
  rcon : Bank 16
  ready : Bool
  deriving DecidableEq, Repr

/-- AES_KEY, AES_DATA, AES_RK and STATUS.KEY_VALID, KEYLEN, NR (10_state R45-R47, R36). -/
structure AesUnit where
  key : Bank 8
  data : Bank 4
  rk : Bank 60
  keyValid : Bool
  keylen : BitVec 2
  nr : BitVec 4
  deriving DecidableEq, Repr

/-- SHA_H, SHA_W and SHA_SCHED (10_state R48-R50). -/
structure ShaUnit where
  h : Bank 8
  w : Bank 16
  sched : Bank 64
  deriving DecidableEq, Repr

/-- Where a jump of the host assembly goes (30_encoding R123, R125). -/
inductive Target where
  | index (n : Nat)
  /-- The label `fail` of the host runtime, which ends the program with failure. -/
  | fail
  deriving DecidableEq, Repr

/-- A statement of a host program after pseudo-instruction expansion (30_encoding R121-R125). -/
inductive Stmt where
  /-- `MemWrite(addr, width, v)`, `width` in bytes; `wr` and a command statement are writes of width 4. -/
  | memWrite (addr width : Nat) (v : Word)
  /-- `MemRead(addr, width)`, which binds host variable `t` where one is named. -/
  | memRead (addr width : Nat) (t : Option Nat)
  /-- `jbit t, k, label`. -/
  | jbit (t k : Nat) (target : Target)
  | jmp (target : Target)
  /-- The host arithmetic of `rdint`: `t <- sum of part_i * 2^(32*i)`. -/
  | sumLimbs (t : Nat) (parts : List Nat)
  /-- The assertion of `expect`: the program fails unless `t = v`. -/
  | check (t v : Nat)
  | halt
  deriving DecidableEq, Repr

/-- Whether the host run goes on, and how it ended (30_encoding R125). -/
inductive HostRun where
  | running
  | halted
  | failed
  deriving DecidableEq, Repr

/-- The host agent (00_scope R17, 30_encoding R125): its program, its pc (a statement index), its
variables and whether it runs. A variable that `vars` does not list is 0. -/
structure HostState where
  program : List Stmt
  pc : Nat
  vars : List (Nat × Nat)
  run : HostRun
  deriving DecidableEq, Repr

/-- Who moves next: the host (one statement), the sequencer (a completion) or the platform's reset
input (00_scope R17, 70_reset_and_hazards R360). -/
inductive Turn where
  | host
  | sequencer
  | powerOnReset
  deriving DecidableEq, Repr

/-- The whole state: the engine's registers and sequencer (10_state R30), the host agent, the
instance's parameters, and two fields of the model's own, `turns` (the order in which the agents move,
which 93_implementation_defined I2 and I3 leave open) and `draws` (how many free values have been read). -/
structure State where
  params : Params
  ctl : Control
  pke : PkeUnit
  gf : GfUnit
  tables : Tables
  aes : AesUnit
  sha : ShaUnit
  host : HostState
  turns : List Turn
  draws : Nat
  deriving DecidableEq, Repr

/-- Why the machine stops with a fault. -/
inductive Fault where
  /-- `raise BusError`: a host access inside the window that is not an aligned 32-bit access
  (20_memory R84, 60_exceptions R326). Raised by `busRead` and `busWrite`; the spec calls it a fault
  of the host's step, so stopping is safe. -/
  | busError
  deriving DecidableEq, Repr

/-- Why a step is refused. -/
inductive Refusal where
  /-- A command that has no meaning in the model. Raised by an arm of `exec` alone; safe. -/
  | notModelled (mnemonic : String)
  /-- A host access outside the register window, which is the platform's and not the engine's
  (20_memory R85). Raised by `busRead` and `busWrite`; safe, since nothing is claimed of such a step. -/
  | platformAddress
  deriving DecidableEq, Repr

/-- The generated tables with the values 41_gf R184, R185 and R178 list (10_state R51-R53). -/
def Tables.listed : Tables where
  sbox := Bank.ofFn fun i => (sboxListed (BitVec.ofNat 8 i.val)).setWidth 32
  invSbox := Bank.ofFn fun i => (Sys2Proof.invSbox (BitVec.ofNat 8 i.val)).setWidth 32
  rcon := Bank.ofFn fun i => rconWord i.val
  ready := true

/-- The state after the reset sequence has completed: the values of 10_state R58, with the host at
the start of an empty program (30_encoding R125). Which of the two reset states this is, the empty
program, the parameters and the model's own fields are in notes/assumptions/2.md to 5.md and 8.md. -/
def State.reset : State where
  params := Params.default
  ctl :=
    { ie := false, done := false, err := false, wib := false, cmdLast := 0, errCode := 0, errOpc := 0
      seq := .idle, irq := false }
  pke := { len := 0, a := Bank.zero 256, b := Bank.zero 256, e := Bank.zero 256, n := Bank.zero 256, r := Bank.zero 256 }
  gf := { a := 0, b := 0, res := 0 }
  tables := Tables.listed
  aes := { key := Bank.zero 8, data := Bank.zero 4, rk := Bank.zero 60, keyValid := false, keylen := 0, nr := 0 }
  sha := { h := Bank.zero 8, w := Bank.zero 16, sched := Bank.zero 64 }
  host := { program := [], pc := 0, vars := [], run := .running }
  turns := []
  draws := 0

end Sys2Proof.Machine
end

