-- ==== Sys2Proof/Machine/Ops.lean ====
section
/-! DEFINITION. The named operations on the state: the interrupt line, rejection (the engine's one exception), acceptance, completion, reset, writing a result, and the host's own pc and variables. -/

namespace Sys2Proof.Machine

/-- The bits an error name has in ERRCODE.CODE (60_exceptions R321). -/
def ErrCode.code : ErrCode → Byte
  | .illegalOpc => 0x01
  | .reservedField => 0x02
  | .busy => 0x04
  | .pkeBadLen => 0x10
  | .pkeZeroModulus => 0x11
  | .pkeMsgTooLarge => 0x12
  | .pkeEvenModulus => 0x13
  | .pkeOperandRange => 0x14
  | .aesBadKeylen => 0x30
  | .aesNoKey => 0x31
  | .aesBadRound => 0x32

/-- `STATUS.BUSY = 1` exactly when `seq = BUSY(_)` (10_state R60). -/
def State.isBusy (s : State) : Bool := s.ctl.seq != .idle

/-- `IRQ <- CTRL.IE and (STATUS.DONE or STATUS.ERR)` (10_state R57). -/
def State.refreshIrq (s : State) : State :=
  { s with ctl := { s.ctl with irq := s.ctl.ie && (s.ctl.done || s.ctl.err) } }

/-- The line of the platform's interrupt controller that the engine drives, where it drives one
(60_exceptions R327, 00_scope R8). -/
def State.assertedLine (s : State) : Option Nat := if s.ctl.irq then some s.params.irqLine else none

/-- `reject(c, code)` for a word with OPC `opc`: the engine's one synchronous exception
(60_exceptions R322, R320). It has no handler address and saves no pc (R329). -/
def State.reject (opc : Byte) (code : ErrCode) (s : State) : State :=
  State.refreshIrq { s with ctl := { s.ctl with err := true, errCode := code.code, errOpc := opc } }

/-- Acceptance: `seq <- BUSY(c)` and nothing else but the interrupt line, which is re-evaluated after
every host write (60_exceptions R323, 20_memory R87). -/
def State.accept (i : Instr) (s : State) : State :=
  State.refreshIrq { s with ctl := { s.ctl with seq := .busy i } }

/-- The end of `complete(c)` for a command started by a host write (10_state R62). -/
def State.finish (s : State) : State :=
  State.refreshIrq { s with ctl := { s.ctl with seq := .idle, done := true } }

/-- The end of `complete(TBLGEN_RESET)`, which does not set DONE (10_state R62, 70_reset_and_hazards R362). -/
def State.finishReset (s : State) : State :=
  State.refreshIrq { s with ctl := { s.ctl with seq := .idle } }

/-- What a submission does once the command's own checks have given their first failure
(60_exceptions R323): BUSY first, then that failure, else acceptance. -/
def State.submit (i : Instr) (failing : Option ErrCode) (s : State) : State :=
  match s.ctl.seq with
  | .idle =>
    match failing with
    | some code => s.reject i.opcode code
    | none => s.accept i
  | _ => s.reject i.opcode .busy

/-- A command's whole rule. While the sequencer runs `i` it is the completion: the effect, then the
end of 10_state R62. Otherwise it is the submission of `i` with the command's own checks
(60_exceptions R323, R324). See notes/assumptions/6.md. -/
def runCommand (i : Instr) (checks : State → Option ErrCode) (effect : State → State) (s : State) :
    Host.Outcome State Fault Refusal :=
  if s.ctl.seq = .busy i then .next (effect s).finish else .next (s.submit i (checks s))

/-- PKE_R gets a result (40_pke R142). -/
def State.withPkeR (r : Bank 256) (s : State) : State := { s with pke := { s.pke with r := r } }

/-- GF_RES.RES gets a result (10_state R42). -/
def State.withGfRes (v : Byte) (s : State) : State := { s with gf := { s.gf with res := v } }

/-- The tables and TABLES_READY are written (41_gf R183). -/
def State.withTables (t : Tables) (s : State) : State := { s with tables := t }

/-- AES_RK, KEY_VALID, KEYLEN and NR are written (42_aes R213). -/
def State.withSchedule (rk : Bank 60) (keylen : BitVec 2) (nr : BitVec 4) (s : State) : State :=
  { s with aes := { s.aes with rk := rk, keyValid := true, keylen := keylen, nr := nr } }

/-- AES_DATA is written (42_aes R214-R222). -/
def State.withAesData (d : Bank 4) (s : State) : State := { s with aes := { s.aes with data := d } }

/-- SHA_H is written (43_sha R248, R249). -/
def State.withShaH (h : Bank 8) (s : State) : State := { s with sha := { s.sha with h := h } }

/-- SHA_SCHED is written (43_sha R249, R250). -/
def State.withShaSched (w : Bank 64) (s : State) : State := { s with sha := { s.sha with sched := w } }

/-- The tables as a reset leaves them (70_reset_and_hazards R361). -/
def Tables.cleared : Tables where
  sbox := Bank.zero 256
  invSbox := Bank.zero 256
  rcon := Bank.zero 16
  ready := false

/-- `reset()`, the one atomic step of both reset sources (70_reset_and_hazards R360, R361). It abandons
a running command (R363) and touches the engine alone: the host agent, the parameters and the model's
own fields stay. -/
def State.engineReset (s : State) : State :=
  { s with
    ctl :=
      { ie := false, done := false, err := false, wib := false, cmdLast := 0, errCode := 0, errOpc := 0
        seq := .tblgenReset, irq := false }
    pke :=
      { len := 0, a := Bank.zero 256, b := Bank.zero 256, e := Bank.zero 256, n := Bank.zero 256
        r := Bank.zero 256 }
    gf := { a := 0, b := 0, res := 0 }
    tables := Tables.cleared
    aes :=
      { key := Bank.zero 8, data := Bank.zero 4, rk := Bank.zero 60, keyValid := false, keylen := 0, nr := 0 }
    sha := { h := Bank.zero 8, w := Bank.zero 16, sched := Bank.zero 64 } }

/-- `CMD_LAST <- v` (10_state R37). -/
def State.withCmdLast (v : Word) (s : State) : State := { s with ctl := { s.ctl with cmdLast := v } }

/-- `STATUS.WIB <- 1` (10_state R63). -/
def State.setWib (s : State) : State := { s with ctl := { s.ctl with wib := true } }

/-- A fresh `draw()` (10_state R61): the value and the state in which the next one is another. -/
def State.drawn (s : State) : Word × State := (Config.draw s.draws, { s with draws := s.draws + 1 })

/-- A host variable's value; 0 where nothing has bound it (notes/assumptions/5.md). -/
def varsGet : List (Nat × Nat) → Nat → Nat
  | [], _ => 0
  | (k, v) :: rest, t => if k = t then v else varsGet rest t

/-- Binding a host variable keeps the canonical form: keys strictly rising, no entry equal to 0. -/
def varsSet : List (Nat × Nat) → Nat → Nat → List (Nat × Nat)
  | [], t, x => if x = 0 then [] else [(t, x)]
  | (k, v) :: rest, t, x =>
    if k < t then (k, v) :: varsSet rest t x
    else if k = t then (if x = 0 then rest else (t, x) :: rest)
    else if x = 0 then (k, v) :: rest
    else (t, x) :: (k, v) :: rest

/-- The canonical form of the host's variables. -/
def varsWf : List (Nat × Nat) → Bool
  | [] => true
  | [(_, v)] => v != 0
  | (k, v) :: (k', v') :: rest => decide (k < k') && v != 0 && varsWf ((k', v') :: rest)

/-- The host's next statement (30_encoding R125). -/
def State.fetch (s : State) : Option Stmt := s.host.program[s.host.pc]?

/-- The host pc goes on by 1 (30_encoding R125). -/
def State.advance (s : State) : State := { s with host := { s.host with pc := s.host.pc + 1 } }

/-- `t <- v` for a host variable; no change where no variable is named (30_encoding R121). -/
def State.bind (t : Option Nat) (v : Nat) (s : State) : State :=
  match t with
  | none => s
  | some k => { s with host := { s.host with vars := varsSet s.host.vars k v } }

/-- The host run ends (30_encoding R123, R125). -/
def State.endRun (r : HostRun) (s : State) : State := { s with host := { s.host with run := r } }

/-- A jump of the host program; to `fail` it ends the run with failure (30_encoding R123, R125). -/
def State.goto (target : Target) (s : State) : State :=
  match target with
  | .index n => { s with host := { s.host with pc := n } }
  | .fail => s.endRun .failed

end Sys2Proof.Machine
end

