-- ==== Sys2Proof/Machine/Operands.lean ====
section
/-! DEFINITION. Every operand form: the integers of limb arrays (00_scope R13, 40_pke R140), the result limbs (40_pke R142), the cipher state (42_aes R200) and the key lengths (42_aes R201). -/

namespace Sys2Proof.Machine

/-- The integer of a list of limbs, least significant first (20_memory R81). -/
def limbsVal : List Word → Nat
  | [] => 0
  | w :: ws => w.toNat + 2 ^ 32 * limbsVal ws

/-- `val_L(X)` (00_scope R13). -/
def valL (L : Nat) (x : Bank 256) : Nat := limbsVal (x.words.take L)

/-- `limbs_L(v)` in limbs 0..L-1 and 0 above (00_scope R13, 40_pke R142). -/
def limbsOf (L v : Nat) : Bank 256 :=
  Bank.ofFn fun i => if i.val < L then BitVec.ofNat 32 (v / 2 ^ (32 * i.val)) else 0

/-- `L = PKE_LEN.L` (10_state R39). -/
def State.limbs (s : State) : Nat := s.pke.len.toNat

/-- `a = val_L(PKE_A)` (40_pke R140). -/
def State.opA (s : State) : Nat := valL s.limbs s.pke.a

/-- `b = val_L(PKE_B)` (40_pke R140). -/
def State.opB (s : State) : Nat := valL s.limbs s.pke.b

/-- `e = val_L(PKE_E)` (40_pke R140). -/
def State.opE (s : State) : Nat := valL s.limbs s.pke.e

/-- `n = val_L(PKE_N)` (40_pke R140). -/
def State.opN (s : State) : Nat := valL s.limbs s.pke.n

/-- `s[r][c]`, lane `r` of AES_DATA[c] (42_aes R200). -/
def stateByte (d : Bank 4) (r c : Fin 4) : Byte := lane (d.get c) r.val

/-- The cipher state with the bytes `f r c` (42_aes R200). -/
def stateOf (f : Fin 4 → Fin 4 → Byte) : Bank 4 :=
  Bank.ofFn fun c => packBytes (f 0 c) (f 1 c) (f 2 c) (f 3 c)

/-- `Nk` of a key-length code (42_aes R201). AES_EXPAND is accepted with the codes 0, 1 and 2 only. -/
def nkOf : Nat → Nat
  | 0 => 4
  | 1 => 6
  | _ => 8

/-- `Nr` of a key-length code (42_aes R201). -/
def nrOf : Nat → Nat
  | 0 => 10
  | 1 => 12
  | _ => 14

/-- The words of a schedule, `4*(Nr+1)` (42_aes R201). -/
def scheduleWords (nr : Nat) : Nat := 4 * (nr + 1)

end Sys2Proof.Machine
end

