-- ==== Sys2Proof/Machine/AesCipher.lean ====
section
/-! DEFINITION. The AES transforms, the key expansion and the two ciphers (42_aes R202-R212). -/

namespace Sys2Proof.Machine

/-- `RotWord` (42_aes R202). -/
def rotWord (w : Word) : Word := (w <<< 8) ||| (w >>> 24)

/-- `SubWord` (42_aes R202). -/
def subWord (w : Word) : Word := mapLanes sbox w

/-- The word `t` of 42_aes R203 that is XORed into w[i-Nk]. -/
def expandTerm (nk i : Nat) (prev : Word) : Word :=
  if i % nk = 0 then subWord (rotWord prev) ^^^ rconWord (i / nk)
  else if nk = 8 ∧ i % nk = 4 then subWord prev
  else prev

/-- `k` more words of the schedule after the words `ws` (the loop of 42_aes R203). -/
def expandMore (nk : Nat) : Nat → List Word → List Word
  | 0, ws => ws
  | k + 1, ws =>
    let i := ws.length
    expandMore nk k (ws ++ [ws.getD (i - nk) 0 ^^^ expandTerm nk i (ws.getD (i - 1) 0)])

/-- `KeyExpansion(k[0..Nk-1])`, the words w[0 .. 4*(Nr+1)-1] (42_aes R203). -/
def keyExpansion (nk nr : Nat) (key : List Word) : List Word :=
  expandMore nk (scheduleWords nr - nk) (key.take nk)

/-- SubBytes (42_aes R204). -/
def subBytes (d : Bank 4) : Bank 4 := stateOf fun r c => sbox (stateByte d r c)

/-- InvSubBytes (42_aes R205). -/
def invSubBytes (d : Bank 4) : Bank 4 := stateOf fun r c => invSbox (stateByte d r c)

/-- ShiftRows (42_aes R206); addition of Fin 4 is modulo 4. -/
def shiftRows (d : Bank 4) : Bank 4 := stateOf fun r c => stateByte d r (c + r)

/-- InvShiftRows (42_aes R207); subtraction of Fin 4 is modulo 4. -/
def invShiftRows (d : Bank 4) : Bank 4 := stateOf fun r c => stateByte d r (c - r)

/-- The product of a circulant matrix with a column: row `r` is the first row moved `r` places to the
right (the matrices of 42_aes R208 and R209). -/
def mixWith (m0 m1 m2 m3 : Byte) (d : Bank 4) : Bank 4 :=
  stateOf fun r c =>
    gfmul m0 (stateByte d r c) ^^^ gfmul m1 (stateByte d (r + 1) c)
      ^^^ gfmul m2 (stateByte d (r + 2) c) ^^^ gfmul m3 (stateByte d (r + 3) c)

/-- MixColumns, first row (02, 03, 01, 01) (42_aes R208). -/
def mixColumns (d : Bank 4) : Bank 4 := mixWith 0x02 0x03 0x01 0x01 d

/-- InvMixColumns, first row (0E, 0B, 0D, 09) (42_aes R209). -/
def invMixColumns (d : Bank 4) : Bank 4 := mixWith 0x0E 0x0B 0x0D 0x09 d

/-- AddRoundKey(i) (42_aes R210). -/
def addRoundKey (w : Bank 60) (i : Nat) (d : Bank 4) : Bank 4 :=
  Bank.ofFn fun c => d.get c ^^^ w.getD (4 * i + c.val)

/-- Rounds 1 to `k` of the loop of 42_aes R211. -/
def encRounds (w : Bank 60) : Nat → Bank 4 → Bank 4
  | 0, d => d
  | k + 1, d => addRoundKey w (k + 1) (mixColumns (shiftRows (subBytes (encRounds w k d))))

/-- `Cipher` (42_aes R211). -/
def cipher (w : Bank 60) (nr : Nat) (d : Bank 4) : Bank 4 :=
  addRoundKey w nr (shiftRows (subBytes (encRounds w (nr - 1) (addRoundKey w 0 d))))

/-- Rounds `k` downto 1 of the loop of 42_aes R212. -/
def decRounds (w : Bank 60) : Nat → Bank 4 → Bank 4
  | 0, d => d
  | k + 1, d => decRounds w k (invMixColumns (addRoundKey w (k + 1) (invSubBytes (invShiftRows d))))

/-- `InvCipher` (42_aes R212). -/
def invCipher (w : Bank 60) (nr : Nat) (d : Bank 4) : Bank 4 :=
  addRoundKey w 0 (invSubBytes (invShiftRows (decRounds w (nr - 1) (addRoundKey w nr d))))

end Sys2Proof.Machine
end

