-- ==== Sys2Proof/Machine/Flags.lean ====
section
/-! DEFINITION. The engine's flags (10_state R55): the STATUS word (R36), ERRCODE (R38), the write sets (R61) and the write-one-to-clear bits (R36). No command computes an arithmetic flag. -/

namespace Sys2Proof.Machine

/-- The STATUS word as it stands, before any `draw()` (10_state R36). -/
def State.statusWord (s : State) : Word :=
  (0 : BitVec 19) ++ BitVec.ofBool s.ctl.irq ++ s.aes.nr ++ s.aes.keylen ++ BitVec.ofBool s.aes.keyValid
    ++ BitVec.ofBool s.tables.ready ++ BitVec.ofBool s.ctl.wib ++ BitVec.ofBool s.ctl.err
    ++ BitVec.ofBool s.ctl.done ++ BitVec.ofBool s.isBusy

/-- The ERRCODE word (10_state R38). -/
def State.errcodeWord (s : State) : Word := (0 : BitVec 16) ++ s.ctl.errOpc ++ s.ctl.errCode

/-- The register a window word belongs to, where it is one that a command writes (10_state R32, R61). -/
def Loc.resultReg : Loc → Option ResultReg
  | .gfRes => some .gfRes
  | .aesData _ => some .aesData
  | .shaH _ => some .shaH
  | .shaSched _ => some .shaSched
  | .aesRk _ => some .aesRk
  | .sbox _ => some .sbox
  | .invSbox _ => some .invSbox
  | .rcon _ => some .rcon
  | .pkeR _ => some .pkeR
  | _ => none

/-- The write set of a command, STATUS fields apart (10_state R61). -/
def writeSet : Instr → List ResultReg
  | .nop => []
  | .modexp => [.pkeR]
  | .rsaCrypt => [.pkeR]
  | .modmul => [.pkeR]
  | .montmul => [.pkeR]
  | .gfadd => [.gfRes]
  | .gfmul => [.gfRes]
  | .gfinv => [.gfRes]
  | .tblGen => [.sbox, .invSbox, .rcon]
  | .aesExpand _ => [.aesRk]
  | .aesEnc => [.aesData]
  | .aesDec => [.aesData]
  | .aesSubBytes => [.aesData]
  | .aesInvSubBytes => [.aesData]
  | .aesShiftRows => [.aesData]
  | .aesInvShiftRows => [.aesData]
  | .aesMixColumns => [.aesData]
  | .aesInvMixColumns => [.aesData]
  | .aesAddRoundKey _ => [.aesData]
  | .shaInit => [.shaH]
  | .shaCompress => [.shaH, .shaSched]
  | .shaSchedule => [.shaSched]

/-- The write set of what the sequencer runs; empty when it is idle (10_state R61). -/
def Seq.writeSet : Seq → List ResultReg
  | .idle => []
  | .busy i => Machine.writeSet i
  | .tblgenReset => [.sbox, .invSbox, .rcon]

/-- Whether a window word other than STATUS is in the write set of what the sequencer runs (10_state R61). -/
def inWriteSet (q : Seq) (l : Loc) : Bool :=
  match l.resultReg with
  | some r => q.writeSet.contains r
  | none => false

/-- The STATUS bits in the write set of the running command (10_state R61): TABLES_READY (bit 4) for
table generation; KEY_VALID, KEYLEN and NR (bits 5, 7:6, 11:8) for AES_EXPAND. -/
def statusWriteSet (q : Seq) : Word :=
  match q with
  | .busy .tblGen => 0x00000010
  | .tblgenReset => 0x00000010
  | .busy (.aesExpand _) => 0x00000FE0
  | _ => 0

/-- A host write of `v` to STATUS: DONE, ERR and WIB are cleared where `v` has a 1, and ERRCODE with ERR
(10_state R36, R38, 20_memory R87). -/
def State.writeStatus (v : Word) (s : State) : State :=
  { s with
    ctl :=
      { s.ctl with
        done := s.ctl.done && !v.getLsbD 1
        err := s.ctl.err && !v.getLsbD 2
        wib := s.ctl.wib && !v.getLsbD 3
        errCode := if v.getLsbD 2 then 0 else s.ctl.errCode
        errOpc := if v.getLsbD 2 then 0 else s.ctl.errOpc } }

/-- A host write of `v` to CTRL: with SRST the reset and nothing else, else IE is stored (10_state R35). -/
def State.writeCtrl (v : Word) (s : State) : State :=
  if v.getLsbD 1 then s.engineReset else { s with ctl := { s.ctl with ie := v.getLsbD 0 } }

end Sys2Proof.Machine
end

