-- ==== Sys2Proof/Machine/Gf.lean ====
section
/-! DEFINITION. The GFU commands and table generation (41_gf R179-R183), and the internal TBLGEN_RESET (70_reset_and_hazards R362). -/

namespace Sys2Proof.Machine

/-- The check list of a command without checks of its own (60_exceptions R324). -/
def noChecks (_ : State) : Option ErrCode := none

/-- `for x = 0 .. 255: INV_SBOX[Sbox(x)] <- zext_32(x)` (41_gf R183), on what INV_SBOX holds. -/
def generateInvSbox (old : Bank 256) : Bank 256 :=
  (List.range 256).foldl
    (fun b x => b.set (sbox (BitVec.ofNat 8 x)).toFin (BitVec.ofNat 32 x)) old

/-- Table generation (41_gf R183) on what the tables hold. -/
def generateTables (old : Tables) : Tables where
  sbox := Bank.ofFn fun x => (sbox (BitVec.ofNat 8 x.val)).setWidth 32
  invSbox := generateInvSbox old.invSbox
  rcon := Bank.ofFn fun i => rconWord i.val
  ready := true

/-- GFADD (41_gf R180). -/
def execGfadd (s : State) : Host.Outcome State Fault Refusal :=
  runCommand .gfadd noChecks (fun s => s.withGfRes (gfadd s.gf.a s.gf.b)) s

/-- GFMUL (41_gf R181). -/
def execGfmul (s : State) : Host.Outcome State Fault Refusal :=
  runCommand .gfmul noChecks (fun s => s.withGfRes (gfmul s.gf.a s.gf.b)) s

/-- GFINV (41_gf R182); GF_B is not read. -/
def execGfinv (s : State) : Host.Outcome State Fault Refusal :=
  runCommand .gfinv noChecks (fun s => s.withGfRes (gfinv s.gf.a)) s

/-- TBL_GEN (41_gf R183). -/
def execTblGen (s : State) : Host.Outcome State Fault Refusal :=
  runCommand .tblGen noChecks (fun s => s.withTables (generateTables s.tables)) s

/-- `complete(TBLGEN_RESET)`: the writes of TBL_GEN, without DONE (70_reset_and_hazards R362, 10_state R62). -/
def completeTblgenReset (s : State) : State := (s.withTables (generateTables s.tables)).finishReset

end Sys2Proof.Machine
end

