-- ==== Sys2Proof/Machine/Aes.lean ====
section
/-! DEFINITION. The ten AES commands (42_aes R213-R222). -/

namespace Sys2Proof.Machine

/-- The check of AES_EXPAND (42_aes R213, 60_exceptions R324). -/
def keylenCheck (kl : Nat) (_ : State) : Option ErrCode := if 2 < kl then some .aesBadKeylen else none

/-- The check of AES_ENC and AES_DEC (42_aes R214, R215, 60_exceptions R324). -/
def keyCheck (s : State) : Option ErrCode := if s.aes.keyValid then none else some .aesNoKey

/-- The checks of AES_ADDROUNDKEY, in order (42_aes R222, 60_exceptions R324). -/
def roundChecks (round : Nat) (s : State) : Option ErrCode :=
  if s.aes.keyValid = false then some .aesNoKey
  else if s.aes.nr.toNat < round then some .aesBadRound
  else none

/-- The array AES_RK that AES_EXPAND leaves: the schedule, then zeros (42_aes R213). -/
def scheduleBank (kl : Nat) (key : Bank 8) : Bank 60 :=
  let w := keyExpansion (nkOf kl) (nrOf kl) key.words
  Bank.ofFn fun i => if i.val < scheduleWords (nrOf kl) then w.getD i.val 0 else 0

/-- AES_EXPAND (42_aes R213). -/
def execAesExpand (kl : Nat) (s : State) : Host.Outcome State Fault Refusal :=
  runCommand (.aesExpand kl) (keylenCheck kl)
    (fun s => s.withSchedule (scheduleBank kl s.aes.key) (BitVec.ofNat 2 kl) (BitVec.ofNat 4 (nrOf kl))) s

/-- AES_ENC (42_aes R214). -/
def execAesEnc (s : State) : Host.Outcome State Fault Refusal :=
  runCommand .aesEnc keyCheck (fun s => s.withAesData (cipher s.aes.rk s.aes.nr.toNat s.aes.data)) s

/-- AES_DEC (42_aes R215). -/
def execAesDec (s : State) : Host.Outcome State Fault Refusal :=
  runCommand .aesDec keyCheck (fun s => s.withAesData (invCipher s.aes.rk s.aes.nr.toNat s.aes.data)) s

/-- AES_SUBBYTES (42_aes R216). -/
def execAesSubBytes (s : State) : Host.Outcome State Fault Refusal :=
  runCommand .aesSubBytes noChecks (fun s => s.withAesData (subBytes s.aes.data)) s

/-- AES_INVSUBBYTES (42_aes R217). -/
def execAesInvSubBytes (s : State) : Host.Outcome State Fault Refusal :=
  runCommand .aesInvSubBytes noChecks (fun s => s.withAesData (invSubBytes s.aes.data)) s

/-- AES_SHIFTROWS (42_aes R218). -/
def execAesShiftRows (s : State) : Host.Outcome State Fault Refusal :=
  runCommand .aesShiftRows noChecks (fun s => s.withAesData (shiftRows s.aes.data)) s

/-- AES_INVSHIFTROWS (42_aes R219). -/
def execAesInvShiftRows (s : State) : Host.Outcome State Fault Refusal :=
  runCommand .aesInvShiftRows noChecks (fun s => s.withAesData (invShiftRows s.aes.data)) s

/-- AES_MIXCOLUMNS (42_aes R220). -/
def execAesMixColumns (s : State) : Host.Outcome State Fault Refusal :=
  runCommand .aesMixColumns noChecks (fun s => s.withAesData (mixColumns s.aes.data)) s

/-- AES_INVMIXCOLUMNS (42_aes R221). -/
def execAesInvMixColumns (s : State) : Host.Outcome State Fault Refusal :=
  runCommand .aesInvMixColumns noChecks (fun s => s.withAesData (invMixColumns s.aes.data)) s

/-- AES_ADDROUNDKEY (42_aes R222). -/
def execAesAddRoundKey (round : Nat) (s : State) : Host.Outcome State Fault Refusal :=
  runCommand (.aesAddRoundKey round) (roundChecks round)
    (fun s => s.withAesData (addRoundKey s.aes.rk round s.aes.data)) s

end Sys2Proof.Machine
end

