-- ==== Sys2Proof/Machine/Misc.lean ====
section
/-! DEFINITION. The sequencer's own command (44_misc R270). -/

namespace Sys2Proof.Machine

/-- NOP: no effect but the BUSY period and its completion (44_misc R270). -/
def execNop (s : State) : Host.Outcome State Fault Refusal := runCommand .nop noChecks (fun s => s) s

end Sys2Proof.Machine
end

