-- ==== Sys2Proof/Machine/Pke.lean ====
section
/-! DEFINITION. The PKE unit: modular exponentiation, RSA, modular and Montgomery multiplication (40_pke R140-R150). -/

namespace Sys2Proof.Machine

/-- `bitlen(x)`, the least k with x < 2^k (00_scope R12). -/
def bitlen (x : Nat) : Nat := if x = 0 then 0 else Nat.log2 x + 1

/-- The loop of 40_pke R145 over the bits j-1 downto 0 of `e`. -/
def modexpLoop (a e n : Nat) : Nat → Nat → Nat
  | 0, r => r
  | j + 1, r =>
    let sq := r * r % n
    modexpLoop a e n j (if e.testBit j then sq * a % n else sq)

/-- The reference algorithm of 40_pke R145, by which R143 says the result is defined; R144 gives its
value as (a ^ e) mod n. -/
def modexpRef (a e n : Nat) : Nat := modexpLoop a e n (bitlen e) (1 % n)

/-- `RADIX = 2^(32*L)` (40_pke R148). -/
def radix (L : Nat) : Nat := 2 ^ (32 * L)

/-- `RADIX^-1 mod n` for an odd `n` (40_pke R148): the 32*L-th power of (n+1)/2, the inverse of 2.
R148 fixes the value, not the way to it (notes/assumptions/9.md). -/
def radixInv (L n : Nat) : Nat := modexpRef ((n + 1) / 2) (32 * L) n

/-- The Montgomery product `(a * b * RADIX^-1) mod n` (40_pke R150). -/
def montProduct (L n a b : Nat) : Nat := a * b * radixInv L n % n

/-- The limb-count check fails (40_pke R141). -/
def State.badLen (s : State) : Bool := s.limbs == 0 || decide (s.params.maxLimbs < s.limbs)

/-- The checks of MODEXP and MODMUL, in order (60_exceptions R324, 40_pke R144, R147). -/
def modulusChecks (s : State) : Option ErrCode :=
  if s.badLen then some .pkeBadLen
  else if s.opN = 0 then some .pkeZeroModulus
  else none

/-- The checks of RSA_CRYPT, in order (60_exceptions R324, 40_pke R146). -/
def rsaChecks (s : State) : Option ErrCode :=
  if s.badLen then some .pkeBadLen
  else if s.opN = 0 then some .pkeZeroModulus
  else if s.opN ≤ s.opA then some .pkeMsgTooLarge
  else none

/-- The checks of MONTMUL, in order (60_exceptions R324, 40_pke R150). -/
def montChecks (s : State) : Option ErrCode :=
  if s.badLen then some .pkeBadLen
  else if s.opN % 2 = 0 then some .pkeEvenModulus
  else if s.opN ≤ s.opA ∨ s.opN ≤ s.opB then some .pkeOperandRange
  else none

/-- The result write of a PKE command (40_pke R142). -/
def State.writeResult (r : Nat) (s : State) : State := s.withPkeR (limbsOf s.limbs r)

/-- MODEXP (40_pke R144). -/
def execModexp (s : State) : Host.Outcome State Fault Refusal :=
  runCommand .modexp modulusChecks (fun s => s.writeResult (modexpRef s.opA s.opE s.opN)) s

/-- RSA_CRYPT (40_pke R146). -/
def execRsaCrypt (s : State) : Host.Outcome State Fault Refusal :=
  runCommand .rsaCrypt rsaChecks (fun s => s.writeResult (modexpRef s.opA s.opE s.opN)) s

/-- MODMUL (40_pke R147). -/
def execModmul (s : State) : Host.Outcome State Fault Refusal :=
  runCommand .modmul modulusChecks (fun s => s.writeResult (s.opA * s.opB % s.opN)) s

/-- MONTMUL (40_pke R150). -/
def execMontmul (s : State) : Host.Outcome State Fault Refusal :=
  runCommand .montmul montChecks
    (fun s => s.writeResult (montProduct s.limbs s.opN s.opA s.opB)) s

end Sys2Proof.Machine
end

