-- ==== Sys2Proof/Machine/ShaFunctions.lean ====
section
/-! DEFINITION. The SHA-256 functions, constants, message schedule and compression (43_sha R240-R247). -/

namespace Sys2Proof.Machine

/-- `Ch(x, y, z)` (43_sha R241). -/
def shaCh (x y z : Word) : Word := (x &&& y) ^^^ (~~~x &&& z)

/-- `Maj(x, y, z)` (43_sha R241). -/
def shaMaj (x y z : Word) : Word := (x &&& y) ^^^ (x &&& z) ^^^ (y &&& z)

/-- `ROTR(x, n)` for 0 < n < 32 (00_scope R12). -/
def rotr (x : Word) (n : Nat) : Word := (x >>> n) ||| (x <<< (32 - n))

/-- Σ0 (43_sha R242). -/
def bigSigma0 (x : Word) : Word := rotr x 2 ^^^ rotr x 13 ^^^ rotr x 22

/-- Σ1 (43_sha R242). -/
def bigSigma1 (x : Word) : Word := rotr x 6 ^^^ rotr x 11 ^^^ rotr x 25

/-- σ0 (43_sha R243). -/
def smallSigma0 (x : Word) : Word := rotr x 7 ^^^ rotr x 18 ^^^ (x >>> 3)

/-- σ1 (43_sha R243). -/
def smallSigma1 (x : Word) : Word := rotr x 17 ^^^ rotr x 19 ^^^ (x >>> 10)

/-- `H0[0..7]` (43_sha R244). -/
def shaH0 : List Word :=
  [ 0x6a09e667, 0xbb67ae85, 0x3c6ef372, 0xa54ff53a,
    0x510e527f, 0x9b05688c, 0x1f83d9ab, 0x5be0cd19 ]

/-- `K[0..7]` (43_sha R245). -/
def shaKRow0 : List Word :=
  [ 0x428a2f98, 0x71374491, 0xb5c0fbcf, 0xe9b5dba5,
    0x3956c25b, 0x59f111f1, 0x923f82a4, 0xab1c5ed5 ]

/-- `K[8..15]` (43_sha R245). -/
def shaKRow1 : List Word :=
  [ 0xd807aa98, 0x12835b01, 0x243185be, 0x550c7dc3,
    0x72be5d74, 0x80deb1fe, 0x9bdc06a7, 0xc19bf174 ]

/-- `K[16..23]` (43_sha R245). -/
def shaKRow2 : List Word :=
  [ 0xe49b69c1, 0xefbe4786, 0x0fc19dc6, 0x240ca1cc,
    0x2de92c6f, 0x4a7484aa, 0x5cb0a9dc, 0x76f988da ]

/-- `K[24..31]` (43_sha R245). -/
def shaKRow3 : List Word :=
  [ 0x983e5152, 0xa831c66d, 0xb00327c8, 0xbf597fc7,
    0xc6e00bf3, 0xd5a79147, 0x06ca6351, 0x14292967 ]

/-- `K[32..39]` (43_sha R245). -/
def shaKRow4 : List Word :=
  [ 0x27b70a85, 0x2e1b2138, 0x4d2c6dfc, 0x53380d13,
    0x650a7354, 0x766a0abb, 0x81c2c92e, 0x92722c85 ]

/-- `K[40..47]` (43_sha R245). -/
def shaKRow5 : List Word :=
  [ 0xa2bfe8a1, 0xa81a664b, 0xc24b8b70, 0xc76c51a3,
    0xd192e819, 0xd6990624, 0xf40e3585, 0x106aa070 ]

/-- `K[48..55]` (43_sha R245). -/
def shaKRow6 : List Word :=
  [ 0x19a4c116, 0x1e376c08, 0x2748774c, 0x34b0bcb5,
    0x391c0cb3, 0x4ed8aa4a, 0x5b9cca4f, 0x682e6ff3 ]

/-- `K[56..63]` (43_sha R245). -/
def shaKRow7 : List Word :=
  [ 0x748f82ee, 0x78a5636f, 0x84c87814, 0x8cc70208,
    0x90befffa, 0xa4506ceb, 0xbef9a3f7, 0xc67178f2 ]

/-- `K[0..63]` (43_sha R245). -/
def shaK : List Word :=
  shaKRow0 ++ shaKRow1 ++ shaKRow2 ++ shaKRow3 ++ shaKRow4 ++ shaKRow5 ++ shaKRow6 ++ shaKRow7

/-- The word W[t] of 43_sha R246 for t >= 16, from the words before it. -/
def scheduleWord (ws : List Word) (t : Nat) : Word :=
  smallSigma1 (ws.getD (t - 2) 0) + ws.getD (t - 7) 0 + smallSigma0 (ws.getD (t - 15) 0) + ws.getD (t - 16) 0

/-- `k` more words of the message schedule after `ws` (the loop of 43_sha R246). -/
def scheduleMore : Nat → List Word → List Word
  | 0, ws => ws
  | k + 1, ws => scheduleMore k (ws ++ [scheduleWord ws ws.length])

/-- `Schedule(M[0..15])`, the words W[0..63] (43_sha R246). -/
def messageSchedule (m : List Word) : List Word := scheduleMore 48 m

/-- The eight working variables of 43_sha R247. -/
structure Working where
  a : Word
  b : Word
  c : Word
  d : Word
  e : Word
  f : Word
  g : Word
  h : Word
  deriving DecidableEq, Repr

/-- One round of 43_sha R247 with the round constant `k` and the schedule word `w`. -/
def shaRound (v : Working) (k w : Word) : Working :=
  let t1 := v.h + bigSigma1 v.e + shaCh v.e v.f v.g + k + w
  let t2 := bigSigma0 v.a + shaMaj v.a v.b v.c
  { a := t1 + t2, b := v.a, c := v.b, d := v.c, e := v.d + t1, f := v.e, g := v.f, h := v.g }

/-- The rounds over the constants and the schedule (43_sha R247). -/
def shaRounds : List Word → List Word → Working → Working
  | k :: ks, w :: ws, v => shaRounds ks ws (shaRound v k w)
  | _, _, v => v

/-- `Compress(H[0..7], M[0..15])` (43_sha R247). -/
def shaCompressBlock (h : Bank 8) (m : Bank 16) : Bank 8 :=
  let v := shaRounds shaK (messageSchedule m.words)
    { a := h.get 0, b := h.get 1, c := h.get 2, d := h.get 3, e := h.get 4, f := h.get 5, g := h.get 6, h := h.get 7 }
  Bank.ofFn fun i => h.get i + [v.a, v.b, v.c, v.d, v.e, v.f, v.g, v.h].getD i.val 0

/-- The array SHA_SCHED of a block (43_sha R246, R249, R250). -/
def scheduleOf (m : Bank 16) : Bank 64 := Bank.ofFn fun i => (messageSchedule m.words).getD i.val 0

end Sys2Proof.Machine
end

