-- ==== Sys2Proof/Machine/Sha.lean ====
section
/-! DEFINITION. The three SHA commands (43_sha R248-R250). -/

namespace Sys2Proof.Machine

/-- SHA_INIT (43_sha R248). -/
def execShaInit (s : State) : Host.Outcome State Fault Refusal :=
  runCommand .shaInit noChecks (fun s => s.withShaH (Bank.ofFn fun i => shaH0.getD i.val 0)) s

/-- SHA_COMPRESS (43_sha R249). -/
def execShaCompress (s : State) : Host.Outcome State Fault Refusal :=
  runCommand .shaCompress noChecks
    (fun s => (s.withShaSched (scheduleOf s.sha.w)).withShaH (shaCompressBlock s.sha.h s.sha.w)) s

/-- SHA_SCHEDULE (43_sha R250). -/
def execShaSchedule (s : State) : Host.Outcome State Fault Refusal :=
  runCommand .shaSchedule noChecks (fun s => s.withShaSched (scheduleOf s.sha.w)) s

end Sys2Proof.Machine
end

