-- ==== Sys2Proof/Machine/Dispatch.lean ====
section
/-! DEFINITION. The meaning of each command, one arm per constructor of Instr (30_encoding R114). -/

namespace Sys2Proof.Machine

def exec (i : Instr) (s : State) : Host.Outcome State Fault Refusal :=
  match i with
  | .nop => Sys2Proof.Machine.execNop s
  | .modexp => Sys2Proof.Machine.execModexp s
  | .rsaCrypt => Sys2Proof.Machine.execRsaCrypt s
  | .modmul => Sys2Proof.Machine.execModmul s
  | .montmul => Sys2Proof.Machine.execMontmul s
  | .gfadd => Sys2Proof.Machine.execGfadd s
  | .gfmul => Sys2Proof.Machine.execGfmul s
  | .gfinv => Sys2Proof.Machine.execGfinv s
  | .tblGen => Sys2Proof.Machine.execTblGen s
  | .aesExpand kl => Sys2Proof.Machine.execAesExpand kl s
  | .aesEnc => Sys2Proof.Machine.execAesEnc s
  | .aesDec => Sys2Proof.Machine.execAesDec s
  | .aesSubBytes => Sys2Proof.Machine.execAesSubBytes s
  | .aesInvSubBytes => Sys2Proof.Machine.execAesInvSubBytes s
  | .aesShiftRows => Sys2Proof.Machine.execAesShiftRows s
  | .aesInvShiftRows => Sys2Proof.Machine.execAesInvShiftRows s
  | .aesMixColumns => Sys2Proof.Machine.execAesMixColumns s
  | .aesInvMixColumns => Sys2Proof.Machine.execAesInvMixColumns s
  | .aesAddRoundKey round => Sys2Proof.Machine.execAesAddRoundKey round s
  | .shaInit => Sys2Proof.Machine.execShaInit s
  | .shaCompress => Sys2Proof.Machine.execShaCompress s
  | .shaSchedule => Sys2Proof.Machine.execShaSchedule s

end Sys2Proof.Machine
end

