-- ==== Sys2Proof/Machine/RegisterMap.lean ====
section
/-! DEFINITION. The register map (10_state R32), the value a register reads as, and storing into a data register (10_state R33-R54). -/

namespace Sys2Proof.Machine

/-- The byte offset of a register word from BASE (10_state R32). -/
def Loc.offset : Loc → Nat
  | .id => 0x0000
  | .config => 0x0004
  | .ctrl => 0x0008
  | .status => 0x000C
  | .cmd => 0x0010
  | .errcode => 0x0014
  | .pkeLen => 0x0018
  | .gfA => 0x001C
  | .gfB => 0x0020
  | .gfRes => 0x0024
  | .aesKey i => 0x0100 + 4 * i.val
  | .aesData i => 0x0120 + 4 * i.val
  | .shaH i => 0x0140 + 4 * i.val
  | .shaW i => 0x0180 + 4 * i.val
  | .shaSched i => 0x0200 + 4 * i.val
  | .aesRk i => 0x0300 + 4 * i.val
  | .sbox i => 0x0400 + 4 * i.val
  | .invSbox i => 0x0800 + 4 * i.val
  | .rcon i => 0x0C00 + 4 * i.val
  | .pkeA i => 0x1000 + 4 * i.val
  | .pkeB i => 0x1400 + 4 * i.val
  | .pkeE i => 0x1800 + 4 * i.val
  | .pkeN i => 0x1C00 + 4 * i.val
  | .pkeR i => 0x2000 + 4 * i.val

/-- The registers of the window's first ten words (10_state R32). -/
def scalarAt (k : Nat) : Option Loc :=
  match k with
  | 0 => some .id
  | 1 => some .config
  | 2 => some .ctrl
  | 3 => some .status
  | 4 => some .cmd
  | 5 => some .errcode
  | 6 => some .pkeLen
  | 7 => some .gfA
  | 8 => some .gfB
  | 9 => some .gfRes
  | _ => none

/-- The array words of the window, by word index k = offset / 4 (10_state R32). -/
def arrayAt (k : Nat) : Option Loc :=
  if h : 0x040 ≤ k ∧ k < 0x048 then some (.aesKey ⟨k - 0x040, by omega⟩)
  else if h : 0x048 ≤ k ∧ k < 0x04C then some (.aesData ⟨k - 0x048, by omega⟩)
  else if h : 0x050 ≤ k ∧ k < 0x058 then some (.shaH ⟨k - 0x050, by omega⟩)
  else if h : 0x060 ≤ k ∧ k < 0x070 then some (.shaW ⟨k - 0x060, by omega⟩)
  else if h : 0x080 ≤ k ∧ k < 0x0C0 then some (.shaSched ⟨k - 0x080, by omega⟩)
  else if h : 0x0C0 ≤ k ∧ k < 0x0FC then some (.aesRk ⟨k - 0x0C0, by omega⟩)
  else if h : 0x100 ≤ k ∧ k < 0x200 then some (.sbox ⟨k - 0x100, by omega⟩)
  else if h : 0x200 ≤ k ∧ k < 0x300 then some (.invSbox ⟨k - 0x200, by omega⟩)
  else if h : 0x300 ≤ k ∧ k < 0x310 then some (.rcon ⟨k - 0x300, by omega⟩)
  else if h : 0x400 ≤ k ∧ k < 0x500 then some (.pkeA ⟨k - 0x400, by omega⟩)
  else if h : 0x500 ≤ k ∧ k < 0x600 then some (.pkeB ⟨k - 0x500, by omega⟩)
  else if h : 0x600 ≤ k ∧ k < 0x700 then some (.pkeE ⟨k - 0x600, by omega⟩)
  else if h : 0x700 ≤ k ∧ k < 0x800 then some (.pkeN ⟨k - 0x700, by omega⟩)
  else if h : 0x800 ≤ k ∧ k < 0x900 then some (.pkeR ⟨k - 0x800, by omega⟩)
  else none

/-- Whether a register word exists in an instance: of the PKE arrays, limbs below PKE_MAX_LIMBS
(10_state R43, R44, R54). -/
def Loc.present (maxLimbs : Nat) : Loc → Bool
  | .pkeA i => decide (i.val < maxLimbs)
  | .pkeB i => decide (i.val < maxLimbs)
  | .pkeE i => decide (i.val < maxLimbs)
  | .pkeN i => decide (i.val < maxLimbs)
  | .pkeR i => decide (i.val < maxLimbs)
  | _ => true

/-- The register word at an aligned offset; none where the offset is reserved (10_state R32, R54). -/
def locAt (maxLimbs off : Nat) : Option Loc :=
  let k := off / 4
  let l := if k < 10 then scalarAt k else arrayAt k
  l.filter (Loc.present maxLimbs)

/-- The registers the host cannot write (10_state R32, 20_memory R87). -/
def Loc.readOnly : Loc → Bool
  | .id => true
  | .config => true
  | .errcode => true
  | .gfRes => true
  | .pkeR _ => true
  | .aesRk _ => true
  | .shaSched _ => true
  | .sbox _ => true
  | .invSbox _ => true
  | .rcon _ => true
  | _ => false

/-- The data registers, whose host writes a BUSY period drops (10_state R63). -/
def Loc.dataReg : Loc → Bool
  | .pkeLen => true
  | .gfA => true
  | .gfB => true
  | .aesKey _ => true
  | .aesData _ => true
  | .shaH _ => true
  | .shaW _ => true
  | .pkeA _ => true
  | .pkeB _ => true
  | .pkeE _ => true
  | .pkeN _ => true
  | _ => false

/-- The constant of ID (10_state R33). -/
def idWord : Word := 0x50594352

/-- CONFIG: REV = 0x0001 above MAXL = PKE_MAX_LIMBS (10_state R34). -/
def configWord (p : Params) : Word := (0x0001 : BitVec 16) ++ BitVec.ofNat 16 p.maxLimbs

/-- The current value of a register word, reserved fields 0 (10_state R33-R53). -/
def State.readReg (s : State) : Loc → Word
  | .id => idWord
  | .config => configWord s.params
  | .ctrl => (0 : BitVec 31) ++ BitVec.ofBool s.ctl.ie
  | .status => s.statusWord
  | .cmd => s.ctl.cmdLast
  | .errcode => s.errcodeWord
  | .pkeLen => s.pke.len.setWidth 32
  | .gfA => s.gf.a.setWidth 32
  | .gfB => s.gf.b.setWidth 32
  | .gfRes => s.gf.res.setWidth 32
  | .aesKey i => s.aes.key.get i
  | .aesData i => s.aes.data.get i
  | .shaH i => s.sha.h.get i
  | .shaW i => s.sha.w.get i
  | .shaSched i => s.sha.sched.get i
  | .aesRk i => s.aes.rk.get i
  | .sbox i => s.tables.sbox.get i
  | .invSbox i => s.tables.invSbox.get i
  | .rcon i => s.tables.rcon.get i
  | .pkeA i => s.pke.a.get i
  | .pkeB i => s.pke.b.get i
  | .pkeE i => s.pke.e.get i
  | .pkeN i => s.pke.n.get i
  | .pkeR i => s.pke.r.get i

/-- `reg[i] <- v` with reserved fields discarded, for a data register (10_state R39-R49, 20_memory R87);
no effect for any other register. -/
def State.storeReg (l : Loc) (v : Word) (s : State) : State :=
  match l with
  | .pkeLen => { s with pke := { s.pke with len := v.setWidth 16 } }
  | .gfA => { s with gf := { s.gf with a := v.setWidth 8 } }
  | .gfB => { s with gf := { s.gf with b := v.setWidth 8 } }
  | .aesKey i => { s with aes := { s.aes with key := s.aes.key.set i v } }
  | .aesData i => { s with aes := { s.aes with data := s.aes.data.set i v } }
  | .shaH i => { s with sha := { s.sha with h := s.sha.h.set i v } }
  | .shaW i => { s with sha := { s.sha with w := s.sha.w.set i v } }
  | .pkeA i => { s with pke := { s.pke with a := s.pke.a.set i v } }
  | .pkeB i => { s with pke := { s.pke with b := s.pke.b.set i v } }
  | .pkeE i => { s with pke := { s.pke with e := s.pke.e.set i v } }
  | .pkeN i => { s with pke := { s.pke with n := s.pke.n.set i v } }
  | _ => s

end Sys2Proof.Machine
end

