-- ==== Sys2Proof/Machine/Bus.lean ====
section
/-! DEFINITION. Host accesses (20_memory R83-R87), submission of a command word (60_exceptions R323), completion (10_state R62), the host's statements (30_encoding R121-R125) and who moves next. -/

namespace Sys2Proof.Machine

/-- The error name of a word the decoder rejects (30_encoding R117, 60_exceptions R321). -/
def rejectionCode : DecodeError → ErrCode
  | .illegalOpc => .illegalOpc
  | .reservedField => .reservedField

/-- `submit(c)` (60_exceptions R323): BUSY first, then the decoder's rejections, then the command's own
checks and acceptance, which are the command's meaning. -/
def submitWord (c : Word) (s : State) : Host.Outcome State Fault Refusal :=
  if s.isBusy then .next (s.reject (opcField c) .busy)
  else
    match decode c with
    | .error e => .next (s.reject (opcField c) (rejectionCode e))
    | .ok i => exec i s

/-- A host read of an aligned offset below 0x4000 (20_memory R86): 0 for a reserved offset, `draw()` for
a register in the running command's write set (10_state R61), else the register's value. In STATUS the
drawn bits are those of the fields in the write set. -/
def windowRead (off : Nat) (s : State) : Word × State :=
  match locAt s.params.maxLimbs off with
  | none => (0, s)
  | some .status =>
    let open_ := statusWriteSet s.ctl.seq
    if open_ = 0 then (s.statusWord, s)
    else
      let d := s.drawn
      ((s.statusWord &&& ~~~open_) ||| (d.1 &&& open_), d.2)
  | some l => if inWriteSet s.ctl.seq l then s.drawn else (s.readReg l, s)

/-- A host write of `v` to a register (20_memory R87). -/
def writeReg (l : Loc) (v : Word) (s : State) : Host.Outcome State Fault Refusal :=
  match l with
  | .ctrl => .next (s.writeCtrl v).refreshIrq
  | .status => .next (s.writeStatus v).refreshIrq
  | .cmd => submitWord v (s.withCmdLast v)
  | l =>
    if l.readOnly then .next s.refreshIrq
    else if s.isBusy then .next s.setWib.refreshIrq
    else .next (s.storeReg l v).refreshIrq

/-- A host write of `v` at an aligned offset below 0x4000 (20_memory R87, 10_state R54). -/
def windowWrite (off : Nat) (v : Word) (s : State) : Host.Outcome State Fault Refusal :=
  match locAt s.params.maxLimbs off with
  | none => .next s.refreshIrq
  | some l => writeReg l v s

/-- Whether an address is in the register window (20_memory R83, R85). -/
def inWindow (p : Params) (addr : Nat) : Bool := decide (p.base ≤ addr) && decide (addr < p.base + windowBytes)

/-- Whether an access is the one kind the engine accepts (20_memory R83). -/
def acceptedAccess (p : Params) (addr width : Nat) : Bool := width == 4 && (addr - p.base) % 4 == 0

/-- `MemRead(addr, width)` (00_scope R14, 20_memory R83-R86). -/
def busRead (addr width : Nat) (s : State) : Host.Outcome (Word × State) Fault Refusal :=
  if inWindow s.params addr then
    if acceptedAccess s.params addr width then .next (windowRead (addr - s.params.base) s) else .fault .busError
  else .refused .platformAddress

/-- `MemWrite(addr, width, v)` (00_scope R14, 20_memory R83-R87). -/
def busWrite (addr width : Nat) (v : Word) (s : State) : Host.Outcome State Fault Refusal :=
  if inWindow s.params addr then
    if acceptedAccess s.params addr width then windowWrite (addr - s.params.base) v s else .fault .busError
  else .refused .platformAddress

/-- The sequencer's step: the completion of what it runs (10_state R62); nothing when idle. -/
def sequencerStep (s : State) : Host.Outcome State Fault Refusal :=
  match s.ctl.seq with
  | .idle => .next s
  | .busy i => exec i s
  | .tblgenReset => .next (completeTblgenReset s)

/-- The host arithmetic of `rdint` (30_encoding R122): the sum of part_i * 2^(32*i). -/
def sumParts (vars : List (Nat × Nat)) : List Nat → Nat
  | [] => 0
  | t :: ts => varsGet vars t + 2 ^ 32 * sumParts vars ts

/-- One statement of the host program (30_encoding R121-R125). -/
def runStmt (st : Stmt) (s : State) : Host.Outcome State Fault Refusal :=
  match st with
  | .memWrite addr width v => busWrite addr width v s.advance
  | .memRead addr width t =>
    match busRead addr width s.advance with
    | .next (v, s') => .next (s'.bind t v.toNat)
    | .fault f => .fault f
    | .refused r => .refused r
  | .jbit t k target => if (varsGet s.host.vars t).testBit k then .next (s.goto target) else .next s.advance
  | .jmp target => .next (s.goto target)
  | .sumLimbs t parts => .next (s.advance.bind (some t) (sumParts s.host.vars parts))
  | .check t v => if varsGet s.host.vars t = v then .next s.advance else .next (s.endRun .failed)
  | .halt => .next (s.endRun .halted)

/-- The host's step: its next statement while its run goes on (30_encoding R125). At the end of the
statement list, which R125 does not describe, the host makes no access (notes/assumptions/4.md). -/
def hostStep (s : State) : Host.Outcome State Fault Refusal :=
  match s.host.run with
  | .running =>
    match s.fetch with
    | some st => runStmt st s
    | none => .next s
  | _ => .next s

/-- The step of the agent whose turn it is (00_scope R17, 70_reset_and_hazards R360). -/
def turnStep (t : Turn) (s : State) : Host.Outcome State Fault Refusal :=
  match t with
  | .host => hostStep s
  | .sequencer => sequencerStep s
  | .powerOnReset => .next s.engineReset

/-- Whose turn it is when `turns` is used up: a busy sequencer completes, else the host moves. So every
accepted command completes after finitely many steps (70_reset_and_hazards R372, notes/assumptions/3.md). -/
def State.nextTurn (s : State) : Turn := if s.isBusy then .sequencer else .host

/-- One atomic step of the interleaving (20_memory R93). -/
def machineStep (s : State) : Host.Outcome State Fault Refusal :=
  match s.turns with
  | [] => turnStep s.nextTurn s
  | t :: rest => turnStep t { s with turns := rest }

/-- The program with `st` as its statement number `pc`. -/
def placeStmt (pc : Nat) (st : Stmt) (program : List Stmt) : List Stmt :=
  (program ++ List.replicate (pc - program.length) Stmt.halt).take pc ++ st :: program.drop (pc + 1)

/-- The bus operation of a command statement whose word is `c` (30_encoding R120). -/
def commandStmt (p : Params) (c : Word) : Stmt := .memWrite (p.base + Loc.offset .cmd) 4 c

/-- The state in which the host's next statement writes the command word `c` to CMD, the host moves
next and the sequencer is idle, so that the next step submits `c` (notes/assumptions/8.md). -/
def State.withNextCommand (c : Word) (s : State) : State :=
  { s with
    ctl := { s.ctl with seq := .idle }
    host :=
      { s.host with
        program := placeStmt s.host.pc (commandStmt s.params c) s.host.program
        run := .running }
    turns := .host :: s.turns }

end Sys2Proof.Machine
end

