-- ==== Sys2Proof/Machine/Step.lean ====
section
/-! DEFINITION. The step of the machine and the placing of a table word where it is fetched next. -/

namespace Sys2Proof.Machine

/-- One step: the agent whose turn it is moves (20_memory R93). -/
def step (s : State) : Host.Outcome State Fault Refusal := machineStep s

/-- The state whose next step submits a table row's word (notes/assumptions/8.md). -/
def State.withFetchWord (s : State) (nbits w : Nat) : State := s.withNextCommand (tableWord nbits w)

end Sys2Proof.Machine
end

