-- ==== Sys2Proof/Machine/HostAsm.lean ====
section
/-! DEFINITION. The host assembly of 30_encoding R120-R124: its lines, the expansion of its pseudo-instructions, and the assembler that resolves labels to statement indices. -/

namespace Sys2Proof.Machine

/-- The register arrays of 10_state R32 by name. -/
inductive ArrayName where
  | aesKey
  | aesData
  | shaH
  | shaW
  | shaSched
  | aesRk
  | sbox
  | invSbox
  | rcon
  | pkeA
  | pkeB
  | pkeE
  | pkeN
  | pkeR
  deriving DecidableEq, Repr

/-- The register `NAME[i]` (30_encoding R121). DESIGN CHOICE (notes/assumptions/16.md): none, an assembly error,
where the array has no word `i`; R121 sets no bound on `i`. -/
def ArrayName.loc (a : ArrayName) (i : Nat) : Option Loc :=
  match a with
  | .aesKey => if h : i < 8 then some (.aesKey ⟨i, h⟩) else none
  | .aesData => if h : i < 4 then some (.aesData ⟨i, h⟩) else none
  | .shaH => if h : i < 8 then some (.shaH ⟨i, h⟩) else none
  | .shaW => if h : i < 16 then some (.shaW ⟨i, h⟩) else none
  | .shaSched => if h : i < 64 then some (.shaSched ⟨i, h⟩) else none
  | .aesRk => if h : i < 60 then some (.aesRk ⟨i, h⟩) else none
  | .sbox => if h : i < 256 then some (.sbox ⟨i, h⟩) else none
  | .invSbox => if h : i < 256 then some (.invSbox ⟨i, h⟩) else none
  | .rcon => if h : i < 16 then some (.rcon ⟨i, h⟩) else none
  | .pkeA => if h : i < 256 then some (.pkeA ⟨i, h⟩) else none
  | .pkeB => if h : i < 256 then some (.pkeB ⟨i, h⟩) else none
  | .pkeE => if h : i < 256 then some (.pkeE ⟨i, h⟩) else none
  | .pkeN => if h : i < 256 then some (.pkeN ⟨i, h⟩) else none
  | .pkeR => if h : i < 256 then some (.pkeR ⟨i, h⟩) else none

/-- A label: a name, or a numeric label `N` (30_encoding R123). Names and numeric labels are apart, so
the numeric label of a `wait` never takes a name's place. -/
inductive Label where
  | name (n : Nat)
  | numeric (n : Nat)
  deriving DecidableEq, Repr

/-- A reference to a label: a name, `Nb`, `Nf`, or the runtime's `fail` (30_encoding R123). -/
inductive LabelRef where
  | name (n : Nat)
  | back (n : Nat)
  | fwd (n : Nat)
  | fail
  deriving DecidableEq, Repr

/-- A line of host assembly (30_encoding R120-R123). Host variables and names are numbers. -/
inductive Line where
  | label (l : Label)
  | command (i : Instr)
  | wr (l : Loc) (v : Word)
  | rd (l : Loc) (t : Option Nat)
  | jbit (t k : Nat) (target : LabelRef)
  | jmp (target : LabelRef)
  | halt
  /-- `wait`, polling into variable `t`. -/
  | wait (t : Nat)
  | clear
  | wrbytes (a : ArrayName) (bytes : List Byte)
  | wrint (a : ArrayName) (v L : Nat)
  /-- `rdint NAME, L -> t`; the words t_i are the variables `part`, `part + 1`, ... -/
  | rdint (a : ArrayName) (L t part : Nat)
  /-- `expect LOC, v`, read into variable `t`. -/
  | expect (l : Loc) (v : Word) (t : Nat)
  /-- `run MNEMONIC [imm]`, polling into variable `t`. -/
  | run (i : Instr) (t : Nat)
  deriving DecidableEq, Repr

/-- The words of a byte string, big-endian; none unless its length is a multiple of 4 (30_encoding R122,
20_memory R80). -/
def packWords : List Byte → Option (List Word)
  | [] => some []
  | b0 :: b1 :: b2 :: b3 :: rest => (packWords rest).map (packBytes b0 b1 b2 b3 :: ·)
  | _ => none

/-- `wr NAME[k], word_k` for the words from index `k` on (30_encoding R122). -/
def writeWords (base : Nat) (a : ArrayName) : Nat → List Word → Option (List Stmt)
  | _, [] => some []
  | k, w :: ws =>
    match a.loc k, writeWords base a (k + 1) ws with
    | some l, some rest => some (.memWrite (base + l.offset) 4 w :: rest)
    | _, _ => none

/-- `limbs_L(v)` as a list (00_scope R13). -/
def limbList (L v : Nat) : List Word := (List.range L).map fun i => BitVec.ofNat 32 (v / 2 ^ (32 * i))

/-- `rd NAME[i] -> t_i` for i = k .. k+L-1 (30_encoding R122). -/
def readParts (base : Nat) (a : ArrayName) (part : Nat) : Nat → Nat → Option (List Stmt)
  | _, 0 => some []
  | k, L + 1 =>
    match a.loc k, readParts base a part (k + 1) L with
    | some l, some rest => some (.memRead (base + l.offset) 4 (some (part + k)) :: rest)
    | _, _ => none

/-- `wait` at statement index `p` (30_encoding R122). Its `1b` is its own label `1:`, the nearest one before
the `jbit`. -/
def waitStmts (base p t : Nat) : List Stmt :=
  [.memRead (base + Loc.offset .status) 4 (some t), .jbit t 0 (.index p)]

/-- A command statement (30_encoding R120); none where the immediate is out of 0..255. -/
def commandStmts (base : Nat) (i : Instr) : Option (List Stmt) :=
  if i.wellFormed then some [.memWrite (base + Loc.offset .cmd) 4 (encode i)] else none

/-- The statements of a line at statement index `p` (30_encoding R120-R123); none is an assembly error.
DESIGN CHOICE (notes/assumptions/14.md): the host arithmetic that ends a `rdint` and the assertion that
ends an `expect` are each a statement with an index of its own, which 30_encoding R122 and R125 leave open. -/
def Line.expand (base p : Nat) (resolve : LabelRef → Option Target) : Line → Option (List Stmt)
  | .label _ => some []
  | .command i => commandStmts base i
  | .wr l v => some [.memWrite (base + l.offset) 4 v]
  | .rd l t => some [.memRead (base + l.offset) 4 t]
  | .jbit t k target => (resolve target).map fun g => [.jbit t k g]
  | .jmp target => (resolve target).map fun g => [.jmp g]
  | .halt => some [.halt]
  | .wait t => some (waitStmts base p t)
  | .clear => some [.memWrite (base + Loc.offset .status) 4 0x0000000E]
  | .wrbytes a bytes => (packWords bytes).bind (writeWords base a 0)
  | .wrint a v L => if v < 2 ^ (32 * L) then writeWords base a 0 (limbList L v) else none
  | .rdint a L t part =>
    (readParts base a part 0 L).map fun reads => reads ++ [.sumLimbs t ((List.range L).map (part + ·))]
  | .expect l v t => some [.memRead (base + l.offset) 4 (some t), .check t v.toNat]
  | .run i t =>
    (commandStmts base i).map fun c =>
      c ++ waitStmts base (p + 1) t ++ [.memRead (base + Loc.offset .status) 4 (some t), .jbit t 2 .fail]

/-- How many statements a line expands to. DESIGN CHOICE (notes/assumptions/14.md): the sum of a `rdint` and
the assertion of an `expect` count as one statement each, and a `label:` line counts as none. -/
def Line.size : Line → Nat
  | .label _ => 0
  | .wait _ => 2
  | .wrbytes _ bytes => bytes.length / 4
  | .wrint _ _ L => L
  | .rdint _ L _ _ => L + 1
  | .expect _ _ _ => 2
  | .run _ _ => 5
  | _ => 1

/-- The labels a line at statement index `p` defines: a label line its own, `wait` and `run` the numeric
label `1:` at the STATUS read of their expansion (30_encoding R122, R123). -/
def Line.labels (p : Nat) : Line → List (Label × Nat)
  | .label l => [(l, p)]
  | .wait _ => [(.numeric 1, p)]
  | .run _ _ => [(.numeric 1, p + 1)]
  | _ => []

/-- The labels of a listing with their statement indices, in order, from index `p` on, those of its
pseudo-instructions' expansions among them. -/
def labelTable : Nat → List Line → List (Label × Nat)
  | _, [] => []
  | p, l :: rest => l.labels p ++ labelTable (p + l.size) rest

/-- Where a reference at statement index `p` goes (30_encoding R123): `Nb` is the last numeric label N at
or before `p`, `Nf` the first one after it. DESIGN CHOICE (notes/assumptions/15.md): a name that a listing
defines more than once goes to its first definition and is no assembly error, and a reference to a label that
no line defines, or no line on the side it looks to, is none, an assembly error. -/
def resolveLabel (labels : List (Label × Nat)) (p : Nat) : LabelRef → Option Target
  | .fail => some .fail
  | .name n => (labels.find? fun x => x.1 == .name n).map fun x => .index x.2
  | .back n => (labels.reverse.find? fun x => x.1 == .numeric n && decide (x.2 ≤ p)).map fun x => .index x.2
  | .fwd n => (labels.find? fun x => x.1 == .numeric n && decide (p < x.2)).map fun x => .index x.2

/-- The expansion of the lines from statement index `p` on. -/
def assembleFrom (base : Nat) (labels : List (Label × Nat)) : Nat → List Line → Option (List Stmt)
  | _, [] => some []
  | p, l :: rest =>
    match l.expand base p (resolveLabel labels p), assembleFrom base labels (p + l.size) rest with
    | some st, some more => some (st ++ more)
    | _, _ => none

/-- The host program of a listing (30_encoding R120-R125); none is an assembly error. -/
def assemble (base : Nat) (lines : List Line) : Option (List Stmt) :=
  assembleFrom base (labelTable 0 lines) 0 lines

/-- A state with a host program loaded, at its first statement (30_encoding R125). -/
def State.withProgram (program : List Stmt) (s : State) : State :=
  { s with host := { program := program, pc := 0, vars := [], run := .running } }

end Sys2Proof.Machine
end

