-- ==== Sys2Proof/Machine/HostLibrary.lean ====
section
/-! DEFINITION. The host library of 48_host_library R280-R295: host software over the engine's host accesses, with its random draws as an input. -/

namespace Sys2Proof.Machine

/-- The errors of 48_host_library R280. -/
inductive HostError where
  | zeroModulus
  | messageTooLarge
  | noInverse
  | invalidBlockSize
  | invalidKeyLength
  | invalidParameter
  | capacity
  /-- MessageTooLargeError of `pad` and `hash`, an OverflowError (90_conflicts C8). -/
  | hashTooLarge
  | exhaustion
  /-- EngineError(code). -/
  | engine (code : Byte)
  /-- The model's own: the list of draws is used up, so the call has not ended (93 I12, I13). -/
  | unfinished
  /-- The model's own: a host access stopped; no routine makes an access that does. -/
  | stopped
  deriving DecidableEq, Repr

/-- The document's kinds of error (48_host_library R280, column "kind"). -/
inductive ErrorKind where
  | domainError
  | overflowError
  | exhaustionError
  deriving DecidableEq, Repr

/-- The kind of an error (48_host_library R280, 90_conflicts C8); none for EngineError, which has none in
the source, and for the model's own two. -/
def HostError.kind : HostError → Option ErrorKind
  | .zeroModulus => some .domainError
  | .messageTooLarge => some .domainError
  | .noInverse => some .domainError
  | .invalidBlockSize => some .domainError
  | .invalidKeyLength => some .domainError
  | .invalidParameter => some .domainError
  | .capacity => some .domainError
  | .hashTooLarge => some .overflowError
  | .exhaustion => some .exhaustionError
  | .engine _ => none
  | .unfinished => none
  | .stopped => none

/-- What a routine reports for an engine code: the error it names for one of its own codes, and
EngineError(code) for every other, a rejection it did not expect (48_host_library R280, R281). -/
def HostError.ofCode (own : List (ErrCode × HostError)) (code : Byte) : HostError :=
  match own.find? fun x => x.1.code == code with
  | some x => x.2
  | none => .engine code

/-- The codes `modpow` names an error for (60_exceptions R321; notes/assumptions/17.md). -/
def modpowErrors : List (ErrCode × HostError) := [(.pkeBadLen, .capacity), (.pkeZeroModulus, .zeroModulus)]

/-- The codes the squarings of `isProbablyPrime` name an error for (60_exceptions R321; notes/assumptions/17.md). -/
def modsquareErrors : List (ErrCode × HostError) := [(.pkeBadLen, .capacity)]

/-- The codes `encrypt` and `decrypt` name an error for. With n = 0 every input is `>= n`, so the code of a zero
modulus is MessageTooLargeError too (48_host_library R280, R284, 60_exceptions R321; notes/assumptions/17.md). -/
def rsaErrors (n : Nat) : List (ErrCode × HostError) :=
  [(.pkeBadLen, .capacity), (.pkeMsgTooLarge, .messageTooLarge)] ++
    if n = 0 then [(.pkeZeroModulus, .messageTooLarge)] else []

/-- The code `expandKey` names an error for (60_exceptions R321; notes/assumptions/17.md). -/
def expandKeyErrors : List (ErrCode × HostError) := [(.aesBadKeylen, .invalidKeyLength)]

/-- What a routine works on: the engine, the raw draws still to come (48_host_library R294), the
number of polls that will see BUSY = 1 in each wait (any latency, 93 I2), the key of the engine's
current schedule (R290), MAX_PRIME_ATTEMPTS and the attempts counted so far (R288). -/
structure HostCtx where
  engine : State
  draws : List Nat
  polls : List Nat
  schedule : Option (List Byte)
  maxAttempts : Option Nat
  attempts : Nat
  deriving DecidableEq, Repr

/-- A host routine: a result or a typed failure, and the context after it (48_host_library R280). -/
abbrev HostM (α : Type) := ExceptT HostError (StateM HostCtx) α

/-- `MemRead(BASE + off, 4)`. -/
def hostRead (off : Nat) : HostM Word := do
  let c ← get
  match busRead (c.engine.params.base + off) 4 c.engine with
  | .next (v, s) =>
    set { c with engine := s }
    pure v
  | _ => throw .stopped

/-- Replaces the engine by the state an outcome gives. -/
def hostTake (o : Host.Outcome State Fault Refusal) : HostM Unit := do
  let c ← get
  match o with
  | .next s => set { c with engine := s }
  | _ => throw .stopped

/-- `MemWrite(BASE + off, 4, v)`. -/
def hostWrite (off : Nat) (v : Word) : HostM Unit := do
  let c ← get
  hostTake (busWrite (c.engine.params.base + off) 4 v c.engine)

/-- The sequencer completes what it runs. -/
def hostSettle : HostM Unit := do
  let c ← get
  hostTake (sequencerStep c.engine)

/-- `k` polls of STATUS. -/
def pollStatus : Nat → HostM Unit
  | 0 => pure ()
  | k + 1 => do
    let _ ← hostRead (Loc.offset .status)
    pollStatus k

/-- The wait of 48_host_library R281: the polls that see BUSY = 1, the completion, and the poll that
sees BUSY = 0, whose value it returns. DESIGN CHOICE (notes/assumptions/10.md): any finite latency is legal
(93 I2), and a wait past the end of the caller's list of polls has latency 0: no poll sees BUSY = 1. -/
def waitIdle : HostM Word := do
  let c ← get
  if c.engine.isBusy then do
    set { c with polls := c.polls.tail }
    pollStatus (c.polls.headD 0)
    hostSettle
  hostRead (Loc.offset .status)

/-- `issue(word)` (48_host_library R281), with the routine's own errors. -/
def issue (own : List (ErrCode × HostError)) (i : Instr) : HostM Unit := do
  hostWrite (Loc.offset .cmd) (encode i)
  let t ← waitIdle
  if t.getLsbD 2 then do
    let e ← hostRead (Loc.offset .errcode)
    hostWrite (Loc.offset .status) 0x4
    throw (.ofCode own (e.setWidth 8))
  hostWrite (Loc.offset .status) 0x2

/-- `limbsFor(v1, ..., vk)` (48_host_library R282). -/
def limbsFor (vs : List Nat) : Nat := max 1 ((vs.foldl (fun m v => max m (bitlen v)) 0 + 31) / 32)

/-- Fails with CapacityError without touching the engine (48_host_library R282). -/
def needLimbs (L : Nat) : HostM Unit := do
  let c ← get
  if c.engine.params.maxLimbs < L then throw .capacity

/-- The words at offsets off, off+4, ... are written in order (30_encoding R122). -/
def writeRun : Nat → List Word → HostM Unit
  | _, [] => pure ()
  | off, w :: ws => do
    hostWrite off w
    writeRun (off + 4) ws

/-- `k` words are read from offset `off` on, in order (30_encoding R122). -/
def readRun : Nat → Nat → HostM (List Word)
  | _, 0 => pure []
  | off, k + 1 => do
    let w ← hostRead off
    let ws ← readRun (off + 4) k
    pure (w :: ws)

/-- `wrint NAME, v, L` (30_encoding R122). -/
def wrint (off v L : Nat) : HostM Unit := writeRun off (limbList L v)

/-- `rdint NAME, L` (30_encoding R122). -/
def rdint (off L : Nat) : HostM Nat := do
  let ws ← readRun off L
  pure (limbsVal ws)

/-- Byte offsets of the arrays (10_state R32). -/
def offPkeA : Nat := Loc.offset (.pkeA 0)
def offPkeB : Nat := Loc.offset (.pkeB 0)
def offPkeE : Nat := Loc.offset (.pkeE 0)
def offPkeN : Nat := Loc.offset (.pkeN 0)
def offPkeR : Nat := Loc.offset (.pkeR 0)

/-- `modpow(base, exponent, modulus)` (48_host_library R283). DESIGN CHOICE (notes/assumptions/10.md):
ZeroModulusError comes before CapacityError where both hold, an order R283 does not give. -/
def modpow (base exponent modulus : Nat) : HostM Nat := do
  if modulus = 0 then throw .zeroModulus
  let L := limbsFor [exponent, modulus]
  needLimbs L
  hostWrite (Loc.offset .pkeLen) (BitVec.ofNat 32 L)
  wrint offPkeA (base % modulus) L
  wrint offPkeE exponent L
  wrint offPkeN modulus L
  issue modpowErrors .modexp
  rdint offPkeR L

/-- `encrypt` and `decrypt` (48_host_library R284), which differ in the exponent `x` is raised to: every
`x >= n`, also with n = 0, is MessageTooLargeError. DESIGN CHOICE (notes/assumptions/10.md): CapacityError comes
before MessageTooLargeError where both hold, an order R284 does not give. -/
def rsaApply (x n exponent : Nat) : HostM Nat := do
  let L := limbsFor [exponent, n]
  needLimbs L
  if 2 ^ (32 * L) ≤ x then throw .messageTooLarge
  hostWrite (Loc.offset .pkeLen) (BitVec.ofNat 32 L)
  wrint offPkeA x L
  wrint offPkeE exponent L
  wrint offPkeN n L
  issue (rsaErrors n) .rsaCrypt
  rdint offPkeR L

/-- `encrypt(message, (n, e))` (48_host_library R284). -/
def encrypt (message n e : Nat) : HostM Nat := rsaApply message n e

/-- `decrypt(ciphertext, (n, d))` (48_host_library R284). -/
def decrypt (ciphertext n d : Nat) : HostM Nat := rsaApply ciphertext n d

/-- The loop of 48_host_library R285 on (r0, r1, s0, s1, t0, t1); the first argument bounds its turns. -/
def euclidLoop : Nat → Nat → Nat → Int → Int → Int → Int → Nat × Int × Int
  | 0, r0, _, s0, _, t0, _ => (r0, s0, t0)
  | k + 1, r0, r1, s0, s1, t0, t1 =>
    if r1 = 0 then (r0, s0, t0)
    else
      let q : Int := (r0 / r1 : Nat)
      euclidLoop k r1 (r0 - r0 / r1 * r1) s1 (s0 - q * s1) t1 (t0 - q * t1)

/-- `extendedEuclid(a, b)` (48_host_library R285). The remainders fall, so b + 1 turns are enough. -/
def extendedEuclid (a b : Nat) : Nat × Int × Int := euclidLoop (b + 1) a b 1 0 0 1

/-- `modInverse(a, m)` (48_host_library R286). -/
def modInverse (a m : Nat) : Except HostError Nat :=
  if m = 0 then .error .noInverse
  else
    let r := extendedEuclid (a % m) m
    if r.1 ≠ 1 then .error .noInverse else .ok (r.2.1 % (m : Int)).toNat

/-- The next raw draw; a call that needs one more than there are has not ended (48_host_library R294). -/
def nextDraw : HostM Nat := do
  let c ← get
  match c.draws with
  | [] => throw .unfinished
  | x :: rest =>
    set { c with draws := rest }
    pure x

/-- `drawWitness(n)`, in [2, n-2] for n >= 5 (48_host_library R295). -/
def witnessOf (n raw : Nat) : Nat := 2 + raw % (n - 3)

/-- `drawCandidate(k)`, odd and in [2^(k-1), 2^k) for k >= 2 (48_host_library R295). -/
def candidateOf (k raw : Nat) : Nat := 2 ^ (k - 1) + 2 * (raw % 2 ^ (k - 2)) + 1

/-- `x*x mod n` by the engine's MODMUL (48_host_library R287). -/
def modsquare (x n : Nat) : HostM Nat := do
  let L := limbsFor [x, n]
  needLimbs L
  hostWrite (Loc.offset .pkeLen) (BitVec.ofNat 32 L)
  wrint offPkeA x L
  wrint offPkeB x L
  wrint offPkeN n L
  issue modsquareErrors .modmul
  rdint offPkeR L

/-- (s, d) with m = 2^s * d and d odd, for m > 0 (48_host_library R287); the first argument bounds the
divisions by 2. -/
def splitTwos : Nat → Nat → Nat × Nat
  | 0, m => (0, m)
  | k + 1, m =>
    if m % 2 = 0 ∧ 0 < m then
      let r := splitTwos k (m / 2)
      (r.1 + 1, r.2)
    else (0, m)

/-- The inner loop of a Miller-Rabin round: whether one of the next `k` squarings of `x` gives n - 1
(48_host_library R287). -/
def squaresReach (n : Nat) : Nat → Nat → HostM Bool
  | 0, _ => pure false
  | k + 1, x => do
    let y ← modsquare x n
    if y = n - 1 then pure true else squaresReach n k y

/-- One Miller-Rabin round: whether the witness drawn leaves `n` probably prime (48_host_library R287). -/
def millerRabinRound (n s d : Nat) : HostM Bool := do
  let raw ← nextDraw
  let x ← modpow (witnessOf n raw) d n
  if x = 1 ∨ x = n - 1 then pure true else squaresReach n (s - 1) x

/-- The rounds, false on the first witness to compositeness (48_host_library R287). -/
def millerRabin (n s d : Nat) : Nat → HostM Bool
  | 0 => pure true
  | k + 1 => do
    let ok ← millerRabinRound n s d
    if ok then millerRabin n s d k else pure false

/-- `isProbablyPrime(n, rounds)` (48_host_library R287). -/
def isProbablyPrime (n rounds : Nat) : HostM Bool :=
  if n < 2 then pure false
  else if n = 2 ∨ n = 3 then pure true
  else if n % 2 = 0 then pure false
  else
    let r := splitTwos n (n - 1)
    millerRabin n r.1 r.2 rounds

/-- A candidate of `randomPrime(k)`, which counts as an attempt; the draw that would exceed
MAX_PRIME_ATTEMPTS fails with ExhaustionError instead (48_host_library R288). -/
def nextCandidate (k : Nat) : HostM Nat := do
  let c ← get
  match c.maxAttempts with
  | some cap => if cap ≤ c.attempts then throw .exhaustion
  | none => pure ()
  let raw ← nextDraw
  modify fun c => { c with attempts := c.attempts + 1 }
  pure (candidateOf k raw)

/-- `randomPrime(k)` (48_host_library R288); the first argument bounds the candidates, and a call that
needs more has not ended. -/
def randomPrime (k rounds : Nat) : Nat → HostM Nat
  | 0 => throw .unfinished
  | fuel + 1 => do
    let c ← nextCandidate k
    let ok ← isProbablyPrime c rounds
    if ok then pure c else randomPrime k rounds fuel

/-- `repeat q <- randomPrime(k) until q != p` (48_host_library R288). -/
def otherPrime (k rounds p : Nat) : Nat → HostM Nat
  | 0 => throw .unfinished
  | fuel + 1 => do
    let q ← randomPrime k rounds (fuel + 1)
    if q ≠ p then pure q else otherPrime k rounds p fuel

/-- A KeyPair (48_host_library R288). -/
structure KeyPair where
  n : Nat
  e : Nat
  d : Nat
  bitLength : Nat
  deriving DecidableEq, Repr

/-- The outer loop of `generateKeyPair` (48_host_library R288). -/
def keyPairLoop (bitLength e rounds : Nat) : Nat → HostM KeyPair
  | 0 => throw .unfinished
  | fuel + 1 => do
    let k := bitLength / 2
    let p ← randomPrime k rounds (fuel + 1)
    let q ← otherPrime k rounds p (fuel + 1)
    let lam := Nat.lcm (p - 1) (q - 1)
    if Nat.gcd e lam ≠ 1 then keyPairLoop bitLength e rounds fuel
    else
      match modInverse e lam with
      | .ok d => pure { n := p * q, e := e, d := d, bitLength := bitLength }
      | .error err => throw err

/-- PUBLIC_EXPONENT, the `e` of a call that names none (00_scope R8, 48_host_library R288). -/
def publicExponent : Nat := 65537

/-- `generateKeyPair(bitLength, e)` with `MR_ROUNDS = rounds` (48_host_library R288). Each turn of a loop
takes a draw, so the number of draws left bounds every loop. -/
def generateKeyPair (bitLength e rounds : Nat) : HostM KeyPair := do
  if bitLength % 2 = 1 ∨ bitLength < 6 then throw .invalidParameter
  if e % 2 = 0 ∨ e < 3 then throw .invalidParameter
  needLimbs (limbsFor [2 ^ bitLength - 1, e])
  modify fun c => { c with attempts := 0 }
  let c ← get
  keyPairLoop bitLength e rounds (c.draws.length + 1)

/-- The bytes of words, big-endian (20_memory R80). -/
def bytesOf : List Word → List Byte
  | [] => []
  | w :: ws => lane w 0 :: lane w 1 :: lane w 2 :: lane w 3 :: bytesOf ws

/-- The key-length code of a key (48_host_library R289); none for an illegal length. -/
def keyCode (key : List Byte) : Option Nat :=
  if key.length = 16 then some 0
  else if key.length = 24 then some 1
  else if key.length = 32 then some 2
  else none

/-- `wrbytes NAME, bytes` at the array's offset (30_encoding R122). -/
def wrbytes (off : Nat) (bytes : List Byte) : HostM Unit :=
  match packWords bytes with
  | some ws => writeRun off ws
  | none => throw .stopped

/-- The issue of `expandKey(key)` with the host's record of it (48_host_library R289, R290): the key issued last is
the engine's schedule whether or not the call then fails, since an idle engine accepts every AES_EXPAND of a legal
code. After a BUSY rejection the host knows no schedule, and the next block expands its key again
(notes/assumptions/18.md). -/
def issueExpand (key : List Byte) (kl : Nat) : HostM Unit := do
  modify fun c => { c with schedule := some key }
  tryCatch (issue expandKeyErrors (.aesExpand kl)) fun e => do
    if e = .engine (ErrCode.code .busy) then modify fun c => { c with schedule := none }
    throw e

/-- `expandKey(key)` (48_host_library R289); the handle it returns is the key. -/
def expandKey (key : List Byte) : HostM (List Byte) := do
  match keyCode key with
  | none => throw .invalidKeyLength
  | some kl =>
    wrbytes (Loc.offset (.aesKey 0)) key
    issueExpand key kl
    pure key

/-- One block through the engine (48_host_library R290, R291); the key is expanded again when the
engine's schedule is another's. DESIGN CHOICE (notes/assumptions/18.md): the engine's schedule is taken to be that of
the host's record, R290's "last `expandKey`", also where an engine reset or an AES_EXPAND outside the library has changed
it since; after a reset such a call with the last key ends in EngineError(0x31). -/
def blockCall (i : Instr) (block schedule : List Byte) : HostM (List Byte) := do
  if block.length ≠ 16 then throw .invalidBlockSize
  let c ← get
  if c.schedule ≠ some schedule then do
    let _ ← expandKey schedule
  wrbytes (Loc.offset (.aesData 0)) block
  issue [] i
  let ws ← readRun (Loc.offset (.aesData 0)) 4
  pure (bytesOf ws)

/-- `encryptBlock(block, schedule)` (48_host_library R290). -/
def encryptBlock (block schedule : List Byte) : HostM (List Byte) := blockCall .aesEnc block schedule

/-- `decryptBlock(block, schedule)` (48_host_library R291). -/
def decryptBlock (block schedule : List Byte) : HostM (List Byte) := blockCall .aesDec block schedule

/-- The least k with (len + 1 + k) mod 64 = 56 (48_host_library R292). -/
def padZeros (len : Nat) : Nat := (119 - len % 64) % 64

/-- A number as 8 bytes, big-endian (48_host_library R292). -/
def be64 (x : Nat) : List Byte := (List.range 8).map fun i => BitVec.ofNat 8 (x / 2 ^ (8 * (7 - i)))

/-- `pad(message)` (48_host_library R292). -/
def pad (m : List Byte) : Except HostError (List Byte) :=
  if 2 ^ 64 ≤ 8 * m.length then .error .hashTooLarge
  else .ok (m ++ [0x80] ++ List.replicate (padZeros m.length) 0 ++ be64 (8 * m.length))

/-- The blocks of `hash`, `k` of them (48_host_library R293). -/
def hashBlocks : Nat → List Byte → HostM Unit
  | 0, _ => pure ()
  | k + 1, p => do
    wrbytes (Loc.offset (.shaW 0)) (p.take 64)
    issue [] .shaCompress
    hashBlocks k (p.drop 64)

/-- `hash(message)` (48_host_library R293). -/
def hash (m : List Byte) : HostM (List Byte) := do
  match pad m with
  | .error e => throw e
  | .ok p =>
    issue [] .shaInit
    hashBlocks (p.length / 64) p
    let ws ← readRun (Loc.offset (.shaH 0)) 8
    pure (bytesOf ws)

end Sys2Proof.Machine
end

