-- ==== Sys2Proof/Safety.lean ====
section
/-! DEFINITION. What counts as a safe run, in the terms the statements use: the invariant of the engine and the host programs whose accesses the engine accepts. -/

namespace Sys2Proof.Machine

/-- The first failing check of a command, none where it would be accepted (60_exceptions R324). -/
def commandChecks : Instr → State → Option ErrCode
  | .nop => noChecks
  | .modexp => modulusChecks
  | .rsaCrypt => rsaChecks
  | .modmul => modulusChecks
  | .montmul => montChecks
  | .gfadd => noChecks
  | .gfmul => noChecks
  | .gfinv => noChecks
  | .tblGen => noChecks
  | .aesExpand kl => keylenCheck kl
  | .aesEnc => keyCheck
  | .aesDec => keyCheck
  | .aesSubBytes => noChecks
  | .aesInvSubBytes => noChecks
  | .aesShiftRows => noChecks
  | .aesInvShiftRows => noChecks
  | .aesMixColumns => noChecks
  | .aesInvMixColumns => noChecks
  | .aesAddRoundKey round => roundChecks round
  | .shaInit => noChecks
  | .shaCompress => noChecks
  | .shaSchedule => noChecks

/-- IRQ is its equation (10_state R57). -/
abbrev State.IrqInv (s : State) : Prop := s.ctl.irq = (s.ctl.ie && (s.ctl.done || s.ctl.err))

/-- STATUS.ERR = 1 if and only if ERRCODE.CODE is not 0, and ERRCODE is 0 without ERR (10_state R38). -/
abbrev State.ErrInv (s : State) : Prop :=
  (s.ctl.err = true ↔ s.ctl.errCode ≠ 0) ∧ (s.ctl.err = false → s.ctl.errOpc = 0)

/-- When KEY_VALID = 0, KEYLEN and NR are 0; else they are those of a key length (10_state R36, 42_aes R201). -/
abbrev State.KeyInv (s : State) : Prop :=
  if s.aes.keyValid then
    (s.aes.keylen = 0 ∧ s.aes.nr = 10) ∨ (s.aes.keylen = 1 ∧ s.aes.nr = 12) ∨ (s.aes.keylen = 2 ∧ s.aes.nr = 14)
  else s.aes.keylen = 0 ∧ s.aes.nr = 0

/-- The tables hold their generated values except from a reset to the end of its table generation
(41_gf R179, 70_reset_and_hazards R361, R362). -/
abbrev State.TablesInv (s : State) : Prop :=
  s.tables = if s.ctl.seq = .tblgenReset then Tables.cleared else Tables.listed

/-- The slots that do not exist hold 0 (10_state R43, R54). -/
def emptyAbove (maxLimbs : Nat) (x : Bank 256) : Prop := ∀ i : Fin 256, maxLimbs ≤ i.val → x.get i = 0

/-- `emptyAbove` of the five PKE arrays. -/
def State.SlotsInv (s : State) : Prop :=
  emptyAbove s.params.maxLimbs s.pke.a ∧ emptyAbove s.params.maxLimbs s.pke.b ∧
    emptyAbove s.params.maxLimbs s.pke.e ∧ emptyAbove s.params.maxLimbs s.pke.n ∧
    emptyAbove s.params.maxLimbs s.pke.r

/-- What the sequencer runs is a well-formed command whose checks still pass: a BUSY period changes none
of its inputs (10_state R62, R63, 60_exceptions R323). -/
def State.SeqInv (s : State) : Prop :=
  match s.ctl.seq with
  | .busy i => i.WellFormed ∧ commandChecks i s = none
  | _ => True

/-- The invariant that every step keeps. -/
structure State.Inv (s : State) : Prop where
  params : s.params.Legal
  irq : s.IrqInv
  err : s.ErrInv
  key : s.KeyInv
  tables : s.TablesInv
  slots : s.SlotsInv
  seq : s.SeqInv
  vars : varsWf s.host.vars = true

/-- A statement whose bus access, if it makes one, is an aligned 32-bit access inside the window (20_memory R83). -/
def Stmt.accepted (p : Params) : Stmt → Bool
  | .memWrite addr width _ => inWindow p addr && acceptedAccess p addr width
  | .memRead addr width _ => inWindow p addr && acceptedAccess p addr width
  | _ => true

/-- A host program all of whose accesses the engine accepts: a run of it is safe. -/
def State.safeProgram (s : State) : Bool := s.host.program.all (Stmt.accepted s.params)

/-- `k` steps, stopping at the first one that does not answer a next state. -/
def runSteps : Nat → State → Host.Outcome State Fault Refusal
  | 0, s => .next s
  | k + 1, s =>
    match step s with
    | .next t => runSteps k t
    | o => o

/-- A command issued and waited for: its submission, then, if it was accepted, its completion
(48_host_library R281 without the accesses of the host). -/
def perform (i : Instr) (s : State) : Host.Outcome State Fault Refusal :=
  match exec i s with
  | .next t => if t.ctl.seq = .busy i then exec i t else .next t
  | o => o

/-- Commands issued one after another, each after the one before has completed. -/
def performAll : List Instr → State → Host.Outcome State Fault Refusal
  | [], s => .next s
  | i :: is, s =>
    match perform i s with
    | .next t => performAll is t
    | o => o

/-- The commands of round `i` in the sequence of 42_aes R225. -/
def encRoundCommands (i : Nat) : List Instr :=
  [.aesSubBytes, .aesShiftRows, .aesMixColumns, .aesAddRoundKey i]

/-- The command sequence of 42_aes R225 for AES_ENC. -/
def encPipeline (nr : Nat) : List Instr :=
  [.aesAddRoundKey 0] ++ (List.range (nr - 1)).flatMap (fun k => encRoundCommands (k + 1)) ++
    [.aesSubBytes, .aesShiftRows, .aesAddRoundKey nr]

/-- The commands of round `i` in the sequence of 42_aes R212. -/
def decRoundCommands (i : Nat) : List Instr :=
  [.aesInvShiftRows, .aesInvSubBytes, .aesAddRoundKey i, .aesInvMixColumns]

/-- The command sequence of 42_aes R212 for AES_DEC (R225). -/
def decPipeline (nr : Nat) : List Instr :=
  [.aesAddRoundKey nr] ++ (List.range (nr - 1)).flatMap (fun k => decRoundCommands (nr - 1 - k)) ++
    [.aesInvShiftRows, .aesInvSubBytes, .aesAddRoundKey 0]

end Sys2Proof.Machine
end

