-- ==== Sys2Proof/Certificates/Slice0/Obligations.lean ====
section
/-! DEFINITION. The statements about the model, one definition each; each docstring names the rule of spec/ it formalises. -/

open Sys2Proof Sys2Proof.Machine

/-- 30_encoding R110, R117, R120: decoding the word of a well-formed command gives the command back. -/
def Obligations.EncodedCommandDecodesBack : Prop :=
  ∀ i : Instr, i.WellFormed → decode (encode i) = .ok i

/-- 30_encoding R110, R113, R117: a word that decodes to a command is that command's encoding, and the command is well formed. -/
def Obligations.DecodedWordIsItsEncoding : Prop :=
  ∀ (c : Word) (i : Instr), decode c = .ok i → encode i = c ∧ i.WellFormed

/-- 30_encoding R117: the decoder's four outcomes, with the opcode column of R114 written out. -/
def Obligations.DecoderOutcomes : Prop :=
  ∀ c : Word,
    let opcodes : List Byte :=
      [0x00, 0x10, 0x11, 0x12, 0x13, 0x20, 0x21, 0x22, 0x23, 0x30, 0x31, 0x32, 0x33, 0x34, 0x35, 0x36, 0x37, 0x38,
        0x39, 0x40, 0x41, 0x42]
    let opc : Byte := c.extractLsb' 0 8
    let imm : Byte := c.extractLsb' 8 8
    let rsv : BitVec 16 := c.extractLsb' 16 16
    (opc ∉ opcodes → decode c = .error .illegalOpc) ∧
    (opc ∈ opcodes → rsv ≠ 0 → decode c = .error .reservedField) ∧
    (opc ∈ opcodes → rsv = 0 → opc ≠ 0x30 → opc ≠ 0x39 → imm ≠ 0 → decode c = .error .reservedField) ∧
    (opc ∈ opcodes → rsv = 0 → (opc = 0x30 ∨ opc = 0x39 ∨ imm = 0) →
      ∃ i : Instr, decode c = .ok i ∧ i.opcode = opc ∧ i.imm = imm.toNat)

/-- 30_encoding R114: a row's match and mask select exactly the words that decode to the row's command. -/
def Obligations.OpcodeMapSelectsCommands : Prop :=
  ∀ (r : OpcodeRow) (c : Word), r ∈ opcodeRows →
    (r.selects c = true ↔ ∃ i : Instr, decode c = .ok i ∧ i.mnemonic = r.mnemonic)

/-- 30_encoding R114, R120 and 95_test_vectors V-SEQ: words of the spec decode as the spec says. -/
def Obligations.SpecWordsDecode : Prop :=
  decode 0x00000000 = .ok .nop ∧ decode 0x00000011 = .ok .rsaCrypt ∧ decode 0x00000023 = .ok .tblGen ∧
    decode 0x00000230 = .ok (.aesExpand 2) ∧ decode 0x00000A39 = .ok (.aesAddRoundKey 10) ∧
    decode 0x00000041 = .ok .shaCompress ∧ decode 0x00010001 = .error .illegalOpc ∧
    decode 0x00010010 = .error .reservedField ∧ decode 0x00000110 = .error .reservedField

/-- 20_memory R87, 60_exceptions R323: on the host's turn, a CMD write of a word that decodes to `i` while the
sequencer is idle is `exec i` on the state whose turn is used, whose host pc has moved past the statement and whose
CMD_LAST is the word. -/
def Obligations.HostCommandWriteRunsItsMeaning : Prop :=
  ∀ (s : State) (rest : List Turn) (c : Word) (i : Instr),
    s.turns = .host :: rest → s.host.run = .running → s.ctl.seq = .idle →
    s.host.program[s.host.pc]? = some (.memWrite (s.params.base + 0x10) 4 c) → decode c = .ok i →
      step s = exec i
        { s with
          turns := rest
          host := { s.host with pc := s.host.pc + 1 }
          ctl := { s.ctl with cmdLast := c } }

/-- 10_state R62, 00_scope R17: on the sequencer's turn the running command's completion `exec i` is the step; an idle
sequencer's turn changes nothing but the turns. The list of turns, and that a busy sequencer completes when it is used up,
are the model's choice (notes/assumptions/3.md), no rule of the spec. -/
def Obligations.SequencerTurnRunsTheRunningCommand : Prop :=
  ∀ (s : State) (rest : List Turn) (i : Instr),
    (s.turns = .sequencer :: rest → s.ctl.seq = .busy i → step s = exec i { s with turns := rest }) ∧
    (s.turns = [] → s.ctl.seq = .busy i → step s = exec i s) ∧
    (s.turns = .sequencer :: rest → s.ctl.seq = .idle → step s = .next { s with turns := rest })

/-- 60_exceptions R323, R322, 10_state R37: what a CMD write that reaches no command does. While the sequencer is
busy, any word is rejected with BUSY; when it is idle, a word the decoder rejects is rejected with that code. CMD_LAST is
the word in each case, and nothing changes but CMD_LAST, ERR, ERRCODE and IRQ. -/
def Obligations.RefusedWordsChangeOnlyTheErrorState : Prop :=
  ∀ (s : State) (c : Word),
    let refused (code : Byte) : State :=
      { s with
        ctl :=
          { s.ctl with cmdLast := c, err := true, errCode := code, errOpc := c.extractLsb' 0 8, irq := s.ctl.ie } }
    (s.ctl.seq ≠ .idle → busWrite (s.params.base + 0x10) 4 c s = .next (refused 0x04)) ∧
    (s.ctl.seq = .idle → decode c = .error .illegalOpc →
      busWrite (s.params.base + 0x10) 4 c s = .next (refused 0x01)) ∧
    (s.ctl.seq = .idle → decode c = .error .reservedField →
      busWrite (s.params.base + 0x10) 4 c s = .next (refused 0x02))

/-- 60_exceptions R324, 40_pke R141: the checks of each command with the sequencer idle, first to last, and acceptance
when none fails. -/
def Obligations.SubmissionChecksInOrder : Prop :=
  ∀ s : State, s.ctl.seq = .idle →
    let badLen : Prop := s.pke.len.toNat = 0 ∨ s.params.maxLimbs < s.pke.len.toNat
    (badLen → ∀ i ∈ [Instr.modexp, .rsaCrypt, .modmul, .montmul], exec i s = .next (s.reject i.opcode .pkeBadLen)) ∧
    (¬badLen → s.opN = 0 →
      ∀ i ∈ [Instr.modexp, .rsaCrypt, .modmul], exec i s = .next (s.reject i.opcode .pkeZeroModulus)) ∧
    (¬badLen → s.opN ≠ 0 → ∀ i ∈ [Instr.modexp, .modmul], exec i s = .next (s.accept i)) ∧
    (¬badLen → s.opN ≠ 0 → s.opN ≤ s.opA → exec .rsaCrypt s = .next (s.reject 0x11 .pkeMsgTooLarge)) ∧
    (¬badLen → s.opA < s.opN → exec .rsaCrypt s = .next (s.accept .rsaCrypt)) ∧
    (¬badLen → s.opN % 2 = 0 → exec .montmul s = .next (s.reject 0x13 .pkeEvenModulus)) ∧
    (¬badLen → s.opN % 2 = 1 → (s.opN ≤ s.opA ∨ s.opN ≤ s.opB) →
      exec .montmul s = .next (s.reject 0x13 .pkeOperandRange)) ∧
    (¬badLen → s.opN % 2 = 1 → s.opA < s.opN → s.opB < s.opN → exec .montmul s = .next (s.accept .montmul)) ∧
    (∀ kl : Nat, 2 < kl → exec (.aesExpand kl) s = .next (s.reject 0x30 .aesBadKeylen)) ∧
    (∀ kl : Nat, kl ≤ 2 → exec (.aesExpand kl) s = .next (s.accept (.aesExpand kl))) ∧
    (s.aes.keyValid = false →
      exec .aesEnc s = .next (s.reject 0x31 .aesNoKey) ∧ exec .aesDec s = .next (s.reject 0x32 .aesNoKey) ∧
        ∀ round : Nat, exec (.aesAddRoundKey round) s = .next (s.reject 0x39 .aesNoKey)) ∧
    (s.aes.keyValid = true →
      exec .aesEnc s = .next (s.accept .aesEnc) ∧ exec .aesDec s = .next (s.accept .aesDec) ∧
        (∀ round : Nat, s.aes.nr.toNat < round →
          exec (.aesAddRoundKey round) s = .next (s.reject 0x39 .aesBadRound)) ∧
        ∀ round : Nat, round ≤ s.aes.nr.toNat →
          exec (.aesAddRoundKey round) s = .next (s.accept (.aesAddRoundKey round))) ∧
    (∀ i ∈ [Instr.nop, .gfadd, .gfmul, .gfinv, .tblGen, .aesSubBytes, .aesInvSubBytes, .aesShiftRows,
        .aesInvShiftRows, .aesMixColumns, .aesInvMixColumns, .shaInit, .shaCompress, .shaSchedule],
      exec i s = .next (s.accept i))

/-- 60_exceptions R322, R321: `reject` sets ERR, writes OPC and the code's number to ERRCODE, re-evaluates IRQ, and
changes nothing else. -/
def Obligations.RejectionEffect : Prop :=
  ∀ (s : State) (opc : Byte) (code : ErrCode),
    s.reject opc code =
      { s with
        ctl :=
          { s.ctl with
            err := true
            errOpc := opc
            errCode :=
              match code with
              | .illegalOpc => 0x01
              | .reservedField => 0x02
              | .busy => 0x04
              | .pkeBadLen => 0x10
              | .pkeZeroModulus => 0x11
              | .pkeMsgTooLarge => 0x12
              | .pkeEvenModulus => 0x13
              | .pkeOperandRange => 0x14
              | .aesBadKeylen => 0x30
              | .aesNoKey => 0x31
              | .aesBadRound => 0x32
            irq := s.ctl.ie } }

/-- 60_exceptions R323: acceptance changes `seq` and, the line being what 10_state R57 says, nothing else. -/
def Obligations.AcceptanceChangesOnlySeq : Prop :=
  ∀ (i : Instr) (s : State), s.IrqInv → s.accept i = { s with ctl := { s.ctl with seq := .busy i } }

/-- 60_exceptions R325, 10_state R62: every command, in every state, answers a next state: it is accepted, rejected or
completed, and never faults or is refused. -/
def Obligations.EveryCommandAnswersNext : Prop :=
  ∀ (i : Instr) (s : State), ∃ t : State, exec i s = .next t

/-- 44_misc R270, 10_state R62: the completion of NOP sets DONE, ends the BUSY period and changes nothing else but the
line. -/
def Obligations.NopCompletes : Prop :=
  ∀ s : State, s.ctl.seq = .busy .nop →
    exec .nop s = .next { s with ctl := { s.ctl with seq := .idle, done := true, irq := s.ctl.ie } }

/-- 40_pke R144, R146: the completions of MODEXP and RSA_CRYPT write (a ^ e) mod n to PKE_R. -/
def Obligations.ExponentiationsComplete : Prop :=
  ∀ (i : Instr) (s : State), (i = .modexp ∨ i = .rsaCrypt) → s.ctl.seq = .busy i →
    exec i s =
      .next
        { s with
          pke := { s.pke with r := limbsOf s.limbs (s.opA ^ s.opE % s.opN) }
          ctl := { s.ctl with seq := .idle, done := true, irq := s.ctl.ie } }

/-- 40_pke R147: the completion of MODMUL writes (a * b) mod n to PKE_R. -/
def Obligations.ModmulCompletes : Prop :=
  ∀ s : State, s.ctl.seq = .busy .modmul →
    exec .modmul s =
      .next
        { s with
          pke := { s.pke with r := limbsOf s.limbs (s.opA * s.opB % s.opN) }
          ctl := { s.ctl with seq := .idle, done := true, irq := s.ctl.ie } }

/-- 40_pke R150, R148: the completion of MONTMUL with an odd modulus writes to PKE_R the one r below n with
r * RADIX = a * b modulo n. -/
def Obligations.MontmulCompletes : Prop :=
  ∀ s : State, s.ctl.seq = .busy .montmul → s.opN % 2 = 1 →
    ∃ r : Nat,
      r < s.opN ∧ r * 2 ^ (32 * s.limbs) % s.opN = s.opA * s.opB % s.opN ∧
        (∀ r' : Nat, r' < s.opN → r' * 2 ^ (32 * s.limbs) % s.opN = s.opA * s.opB % s.opN → r' = r) ∧
        exec .montmul s =
          .next
            { s with
              pke := { s.pke with r := limbsOf s.limbs r }
              ctl := { s.ctl with seq := .idle, done := true, irq := s.ctl.ie } }

/-- 40_pke R142: a PKE completion with L = 1..256 and n > 0 leaves a result r below n in limbs 0..L-1 of PKE_R, each the
limb of r, and 0 in the limbs from L on; PKE_R read back as an integer is r, and no other register but STATUS changes. -/
def Obligations.PkeResultLimbs : Prop :=
  ∀ (i : Instr) (s : State), i ∈ [Instr.modexp, .rsaCrypt, .modmul, .montmul] → s.ctl.seq = .busy i →
    1 ≤ s.limbs → s.limbs ≤ 256 → 0 < s.opN →
    ∃ (r : Nat) (t : State),
      exec i s = .next t ∧ r < s.opN ∧ r < 2 ^ (32 * s.limbs) ∧
        (∀ k : Fin 256, k.val < s.limbs → t.pke.r.get k = BitVec.ofNat 32 (r / 2 ^ (32 * k.val))) ∧
        (∀ k : Fin 256, s.limbs ≤ k.val → t.pke.r.get k = 0) ∧ valL s.limbs t.pke.r = r ∧
        t =
          { s with
            pke := { s.pke with r := t.pke.r }
            ctl := { s.ctl with seq := .idle, done := true, irq := s.ctl.ie } }

/-- 41_gf R180, R181, R182, R174: the completions of GFADD, GFMUL and GFINV; the inverse is the one byte whose product
with a is 1, and 0 for 0. -/
def Obligations.GfCommandsComplete : Prop :=
  ∀ s : State,
    let finished (v : Byte) : State :=
      { s with
        gf := { s.gf with res := v }
        ctl := { s.ctl with seq := .idle, done := true, irq := s.ctl.ie } }
    (s.ctl.seq = .busy .gfadd → exec .gfadd s = .next (finished (s.gf.a ^^^ s.gf.b))) ∧
    (s.ctl.seq = .busy .gfmul → exec .gfmul s = .next (finished (gfmul s.gf.a s.gf.b))) ∧
    (s.ctl.seq = .busy .gfinv →
      ∃ y : Byte, exec .gfinv s = .next (finished y) ∧ (s.gf.a = 0 → y = 0) ∧
        (s.gf.a ≠ 0 → gfmul s.gf.a y = 1 ∧ ∀ y' : Byte, gfmul s.gf.a y' = 1 → y' = y))

/-- 41_gf R183, R184, R185, R178: the completion of TBL_GEN leaves the tables with the values the spec lists, whatever
they held, and TABLES_READY 1. -/
def Obligations.TblGenCompletes : Prop :=
  ∀ s : State, s.ctl.seq = .busy .tblGen →
    exec .tblGen s =
      .next
        { s with
          tables := Tables.listed
          ctl := { s.ctl with seq := .idle, done := true, irq := s.ctl.ie } }

/-- 42_aes R213, R203: the completion of AES_EXPAND for a legal key-length code: the key, the recurrence, zeros above the
schedule, and KEY_VALID, KEYLEN, NR. -/
def Obligations.AesExpandCompletes : Prop :=
  ∀ (kl nk nr : Nat) (s : State),
    ((kl = 0 ∧ nk = 4 ∧ nr = 10) ∨ (kl = 1 ∧ nk = 6 ∧ nr = 12) ∨ (kl = 2 ∧ nk = 8 ∧ nr = 14)) →
    s.ctl.seq = .busy (.aesExpand kl) →
    ∃ rk : Bank 60,
      exec (.aesExpand kl) s =
        .next
          { s with
            aes :=
              { s.aes with rk := rk, keyValid := true, keylen := BitVec.ofNat 2 kl, nr := BitVec.ofNat 4 nr }
            ctl := { s.ctl with seq := .idle, done := true, irq := s.ctl.ie } } ∧
      (∀ i : Nat, i < nk → rk.getD i = s.aes.key.getD i) ∧
      (∀ i : Nat, nk ≤ i → i < 4 * (nr + 1) →
        rk.getD i = rk.getD (i - nk) ^^^
          (if i % nk = 0 then subWord (rotWord (rk.getD (i - 1))) ^^^ rconWord (i / nk)
           else if nk = 8 ∧ i % nk = 4 then subWord (rk.getD (i - 1))
           else rk.getD (i - 1))) ∧
      (∀ i : Nat, 4 * (nr + 1) ≤ i → i < 60 → rk.getD i = 0)

/-- 42_aes R214, R215: the completions of AES_ENC and AES_DEC put the cipher and the inverse cipher of the block, with
the schedule in AES_RK and NR rounds, in AES_DATA. -/
def Obligations.CipherCommandsComplete : Prop :=
  ∀ s : State,
    let finished (d : Bank 4) : State :=
      { s with
        aes := { s.aes with data := d }
        ctl := { s.ctl with seq := .idle, done := true, irq := s.ctl.ie } }
    (s.ctl.seq = .busy .aesEnc →
      exec .aesEnc s = .next (finished (cipher s.aes.rk s.aes.nr.toNat s.aes.data))) ∧
    (s.ctl.seq = .busy .aesDec →
      exec .aesDec s = .next (finished (invCipher s.aes.rk s.aes.nr.toNat s.aes.data)))

/-- 42_aes R216-R219 (R204-R207): the completions of the byte transforms, byte by byte of the state s[r][c]. -/
def Obligations.ByteTransformsComplete : Prop :=
  ∀ s : State,
    let finishes (i : Instr) (f : Fin 4 → Fin 4 → Byte) : Prop :=
      s.ctl.seq = .busy i →
        ∃ d : Bank 4, (∀ r c : Fin 4, lane (d.get c) r.val = f r c) ∧
          exec i s =
            .next
              { s with
                aes := { s.aes with data := d }
                ctl := { s.ctl with seq := .idle, done := true, irq := s.ctl.ie } }
    let byte (r c : Fin 4) : Byte := lane (s.aes.data.get c) r.val
    finishes .aesSubBytes (fun r c => sboxListed (byte r c)) ∧
    finishes .aesInvSubBytes (fun r c => invSbox (byte r c)) ∧
    finishes .aesShiftRows (fun r c => byte r (c + r)) ∧
    finishes .aesInvShiftRows (fun r c => byte r (c - r))

/-- 42_aes R220, R221 (R208, R209): the completions of MixColumns and InvMixColumns, with the four equations of each
column. -/
def Obligations.MixTransformsComplete : Prop :=
  ∀ s : State,
    let finishes (i : Instr) (f : Fin 4 → Fin 4 → Byte) : Prop :=
      s.ctl.seq = .busy i →
        ∃ d : Bank 4, (∀ r c : Fin 4, lane (d.get c) r.val = f r c) ∧
          exec i s =
            .next
              { s with
                aes := { s.aes with data := d }
                ctl := { s.ctl with seq := .idle, done := true, irq := s.ctl.ie } }
    let k (m : Byte) (r c : Fin 4) : Byte := gfmul m (lane (s.aes.data.get c) r.val)
    let b (r c : Fin 4) : Byte := lane (s.aes.data.get c) r.val
    finishes .aesMixColumns
      (fun r c =>
        match r with
        | 0 => k 0x02 0 c ^^^ k 0x03 1 c ^^^ b 2 c ^^^ b 3 c
        | 1 => b 0 c ^^^ k 0x02 1 c ^^^ k 0x03 2 c ^^^ b 3 c
        | 2 => b 0 c ^^^ b 1 c ^^^ k 0x02 2 c ^^^ k 0x03 3 c
        | 3 => k 0x03 0 c ^^^ b 1 c ^^^ b 2 c ^^^ k 0x02 3 c) ∧
    finishes .aesInvMixColumns
      (fun r c =>
        match r with
        | 0 => k 0x0E 0 c ^^^ k 0x0B 1 c ^^^ k 0x0D 2 c ^^^ k 0x09 3 c
        | 1 => k 0x09 0 c ^^^ k 0x0E 1 c ^^^ k 0x0B 2 c ^^^ k 0x0D 3 c
        | 2 => k 0x0D 0 c ^^^ k 0x09 1 c ^^^ k 0x0E 2 c ^^^ k 0x0B 3 c
        | 3 => k 0x0B 0 c ^^^ k 0x0D 1 c ^^^ k 0x09 2 c ^^^ k 0x0E 3 c)

/-- 42_aes R222, R210: the completion of AES_ADDROUNDKEY with a round key of the schedule. -/
def Obligations.AddRoundKeyCompletes : Prop :=
  ∀ (round : Nat) (s : State) (h : round ≤ 14), s.ctl.seq = .busy (.aesAddRoundKey round) →
    ∃ d : Bank 4,
      (∀ c : Fin 4, d.get c = s.aes.data.get c ^^^ s.aes.rk.get ⟨4 * round + c.val, by omega⟩) ∧
        exec (.aesAddRoundKey round) s =
          .next
            { s with
              aes := { s.aes with data := d }
              ctl := { s.ctl with seq := .idle, done := true, irq := s.ctl.ie } }

/-- 43_sha R248, R244: the completion of SHA_INIT loads the initial hash value. -/
def Obligations.ShaInitCompletes : Prop :=
  ∀ s : State, s.ctl.seq = .busy .shaInit →
    ∃ h : Bank 8,
      h.words =
          [0x6a09e667, 0xbb67ae85, 0x3c6ef372, 0xa54ff53a, 0x510e527f, 0x9b05688c, 0x1f83d9ab, 0x5be0cd19] ∧
        exec .shaInit s =
          .next
            { s with
              sha := { s.sha with h := h }
              ctl := { s.ctl with seq := .idle, done := true, irq := s.ctl.ie } }

/-- 43_sha R250, R246: the completion of SHA_SCHEDULE leaves the block and its recurrence in SHA_SCHED. -/
def Obligations.ShaScheduleCompletes : Prop :=
  ∀ s : State, s.ctl.seq = .busy .shaSchedule →
    ∃ w : Bank 64,
      (∀ t : Nat, t < 16 → w.getD t = s.sha.w.getD t) ∧
        (∀ t : Nat, 16 ≤ t → t < 64 →
          w.getD t =
            smallSigma1 (w.getD (t - 2)) + w.getD (t - 7) + smallSigma0 (w.getD (t - 15)) + w.getD (t - 16)) ∧
        exec .shaSchedule s =
          .next
            { s with
              sha := { s.sha with sched := w }
              ctl := { s.ctl with seq := .idle, done := true, irq := s.ctl.ie } }

/-- 43_sha R249, R247: the completion of SHA_COMPRESS: the schedule in SHA_SCHED obeys the recurrence of R246, and SHA_H
gets the 64 rounds over it, t = 0 first, added to what it held. -/
def Obligations.ShaCompressCompletes : Prop :=
  ∀ s : State, s.ctl.seq = .busy .shaCompress →
    ∃ (w : Bank 64) (h : Bank 8),
      (∀ t : Nat, t < 16 → w.getD t = s.sha.w.getD t) ∧
        (∀ t : Nat, 16 ≤ t → t < 64 →
          w.getD t =
            smallSigma1 (w.getD (t - 2)) + w.getD (t - 7) + smallSigma0 (w.getD (t - 15)) + w.getD (t - 16)) ∧
        (let v : Working :=
          (List.range 64).foldl (fun v t => shaRound v (shaK.getD t 0) (w.getD t))
            ⟨s.sha.h.get 0, s.sha.h.get 1, s.sha.h.get 2, s.sha.h.get 3, s.sha.h.get 4, s.sha.h.get 5,
              s.sha.h.get 6, s.sha.h.get 7⟩;
          h.words =
            [s.sha.h.get 0 + v.a, s.sha.h.get 1 + v.b, s.sha.h.get 2 + v.c, s.sha.h.get 3 + v.d,
              s.sha.h.get 4 + v.e, s.sha.h.get 5 + v.f, s.sha.h.get 6 + v.g, s.sha.h.get 7 + v.h]) ∧
        exec .shaCompress s =
          .next
            { s with
              sha := { s.sha with h := h, sched := w }
              ctl := { s.ctl with seq := .idle, done := true, irq := s.ctl.ie } }

/-- 70_reset_and_hazards R362, 10_state R62: the completion of TBLGEN_RESET writes the tables as TBL_GEN does, sets
TABLES_READY, and leaves DONE as it was. -/
def Obligations.TableGenerationAfterResetCompletes : Prop :=
  ∀ s : State, s.ctl.seq = .tblgenReset →
    sequencerStep s =
      .next
        { s with
          tables := Tables.listed
          ctl := { s.ctl with seq := .idle, irq := s.ctl.ie && (s.ctl.done || s.ctl.err) } }

/-- 10_state R61, 60_exceptions R322, R325: the frame of every command. Whatever a command does, it leaves the host, IE,
WIB and CMD_LAST alone, and every register outside its write set reads as before; a completion leaves ERR and ERRCODE
alone, and the STATUS fields outside its write set; a submission leaves every data register and DONE alone. -/
def Obligations.CommandsWriteOnlyTheirWriteSet : Prop :=
  ∀ (i : Instr) (s t : State), exec i s = .next t →
    t.params = s.params ∧ t.host = s.host ∧ t.turns = s.turns ∧ t.draws = s.draws ∧
    t.ctl.ie = s.ctl.ie ∧ t.ctl.wib = s.ctl.wib ∧ t.ctl.cmdLast = s.ctl.cmdLast ∧
    (∀ l : Loc, l ≠ .status → l ≠ .errcode → (∀ r : ResultReg, l.resultReg = some r → r ∉ writeSet i) →
      t.readReg l = s.readReg l) ∧
    (s.ctl.seq = .busy i →
      t.ctl.err = s.ctl.err ∧ t.ctl.errCode = s.ctl.errCode ∧ t.ctl.errOpc = s.ctl.errOpc ∧
      (i ≠ .tblGen → t.tables = s.tables) ∧
      ((∀ kl : Nat, i ≠ .aesExpand kl) →
        t.aes.keyValid = s.aes.keyValid ∧ t.aes.keylen = s.aes.keylen ∧ t.aes.nr = s.aes.nr)) ∧
    (s.ctl.seq ≠ .busy i →
      t.ctl.done = s.ctl.done ∧ t.pke = s.pke ∧ t.gf = s.gf ∧ t.tables = s.tables ∧ t.aes = s.aes ∧ t.sha = s.sha)

/-- 10_state R32, R54: an aligned offset below 0x4000 names the register of the map at that offset, where it exists in
the instance, and is reserved otherwise. -/
def Obligations.RegisterMapIsExact : Prop :=
  ∀ maxLimbs : Nat,
    (∀ l : Loc, l.offset % 4 = 0 ∧ l.offset < 0x4000 ∧
      locAt maxLimbs l.offset = if l.present maxLimbs then some l else none) ∧
    (∀ (off : Nat) (l : Loc), off % 4 = 0 → off < 0x4000 → locAt maxLimbs off = some l →
      l.offset = off ∧ l.present maxLimbs = true)

/-- 20_memory R86, 10_state R61: a host read of an aligned word of the window. A reserved offset reads 0; a register in
the write set of the running command reads the free value; any other register reads its value; STATUS reads its word with
the bits of the write set free. No register changes: only the counter of free values may go on. -/
def Obligations.HostReadValues : Prop :=
  ∀ (s : State) (off : Nat), off % 4 = 0 → off < 0x4000 →
    (locAt s.params.maxLimbs off = none → busRead (s.params.base + off) 4 s = .next (0, s)) ∧
    (∀ l : Loc, locAt s.params.maxLimbs off = some l → l ≠ .status → inWriteSet s.ctl.seq l = false →
      busRead (s.params.base + off) 4 s = .next (s.readReg l, s)) ∧
    (∀ l : Loc, locAt s.params.maxLimbs off = some l → l ≠ .status → inWriteSet s.ctl.seq l = true →
      busRead (s.params.base + off) 4 s = .next (Config.draw s.draws, { s with draws := s.draws + 1 })) ∧
    (locAt s.params.maxLimbs off = some .status →
      ∃ (w : Word) (n : Nat), busRead (s.params.base + off) 4 s = .next (w, { s with draws := n }) ∧
        (∀ k : Nat, (statusWriteSet s.ctl.seq).getLsbD k = false → w.getLsbD k = s.statusWord.getLsbD k) ∧
        (∀ k : Nat, (statusWriteSet s.ctl.seq).getLsbD k = true → w.getLsbD k = (Config.draw s.draws).getLsbD k))

/-- 10_state R36, R38, R60: the fields of STATUS and ERRCODE stand at the bits the spec gives, and reserved bits are 0. -/
def Obligations.StatusAndErrcodeLayout : Prop :=
  ∀ s : State,
    s.statusWord.getLsbD 0 = decide (s.ctl.seq ≠ .idle) ∧ s.statusWord.getLsbD 1 = s.ctl.done ∧
    s.statusWord.getLsbD 2 = s.ctl.err ∧ s.statusWord.getLsbD 3 = s.ctl.wib ∧
    s.statusWord.getLsbD 4 = s.tables.ready ∧ s.statusWord.getLsbD 5 = s.aes.keyValid ∧
    s.statusWord.extractLsb' 6 2 = s.aes.keylen ∧ s.statusWord.extractLsb' 8 4 = s.aes.nr ∧
    s.statusWord.getLsbD 12 = s.ctl.irq ∧ s.statusWord.extractLsb' 13 19 = 0 ∧
    s.errcodeWord.extractLsb' 0 8 = s.ctl.errCode ∧ s.errcodeWord.extractLsb' 8 8 = s.ctl.errOpc ∧
    s.errcodeWord.extractLsb' 16 16 = 0

/-- 20_memory R87, 10_state R39-R49: a data register written while the sequencer is idle reads back the word with its
reserved fields 0; every other register but STATUS reads as before, and of the flags only the line may change, to its
equation. -/
def Obligations.DataWriteReadsBack : Prop :=
  ∀ (s : State) (l : Loc) (v : Word),
    l.dataReg = true → l.present s.params.maxLimbs = true → s.ctl.seq = .idle →
    ∃ t : State,
      busWrite (s.params.base + l.offset) 4 v s = .next t ∧
        busRead (s.params.base + l.offset) 4 t =
          .next
            ((match l with
              | .pkeLen => v &&& 0x0000FFFF
              | .gfA => v &&& 0x000000FF
              | .gfB => v &&& 0x000000FF
              | _ => v), t) ∧
        (∀ l' : Loc, l' ≠ l → l' ≠ .status → t.readReg l' = s.readReg l') ∧
        t.ctl = { s.ctl with irq := s.ctl.ie && (s.ctl.done || s.ctl.err) } ∧
        t.tables.ready = s.tables.ready ∧ t.aes.keyValid = s.aes.keyValid ∧ t.aes.keylen = s.aes.keylen ∧
        t.aes.nr = s.aes.nr ∧ t.params = s.params ∧ t.host = s.host ∧ t.turns = s.turns ∧ t.draws = s.draws

/-- 10_state R63, R54: during a BUSY period a host write to a data register changes nothing but WIB (the line being its
equation); writes to CTRL, STATUS and CMD act; and writes to read-only registers and reserved offsets are ignored at
all times and never set WIB. -/
def Obligations.BusyPeriodWrites : Prop :=
  ∀ (s : State) (v : Word), s.IrqInv →
    (s.ctl.seq ≠ .idle →
      (∀ l : Loc, l.dataReg = true → l.present s.params.maxLimbs = true →
        busWrite (s.params.base + l.offset) 4 v s = .next { s with ctl := { s.ctl with wib := true } }) ∧
      busWrite (s.params.base + 0x08) 4 v s = .next (s.writeCtrl v).refreshIrq ∧
      busWrite (s.params.base + 0x0C) 4 v s = .next (s.writeStatus v).refreshIrq ∧
      busWrite (s.params.base + 0x10) 4 v s =
        .next ({ s with ctl := { s.ctl with cmdLast := v } }.reject (v.extractLsb' 0 8) .busy)) ∧
    (∀ l : Loc, l.readOnly = true → l.present s.params.maxLimbs = true →
      busWrite (s.params.base + l.offset) 4 v s = .next s) ∧
    (∀ off : Nat, off % 4 = 0 → off < 0x4000 → locAt s.params.maxLimbs off = none →
      busWrite (s.params.base + off) 4 v s = .next s ∧ busRead (s.params.base + off) 4 s = .next (0, s))

/-- 10_state R36, R38, 20_memory R87, 60_exceptions R328: a host write to STATUS clears exactly those of DONE, ERR and
WIB whose bit is 1, ERRCODE with ERR, re-evaluates the line and changes nothing else, busy or not. -/
def Obligations.StatusWriteClearsOnes : Prop :=
  ∀ (s : State) (v : Word),
    busWrite (s.params.base + 0x0C) 4 v s =
      .next
        { s with
          ctl :=
            { s.ctl with
              done := s.ctl.done && !v.getLsbD 1
              err := s.ctl.err && !v.getLsbD 2
              wib := s.ctl.wib && !v.getLsbD 3
              errCode := if v.getLsbD 2 then 0 else s.ctl.errCode
              errOpc := if v.getLsbD 2 then 0 else s.ctl.errOpc
              irq := s.ctl.ie && ((s.ctl.done && !v.getLsbD 1) || (s.ctl.err && !v.getLsbD 2)) } }

/-- 10_state R35, 70_reset_and_hazards R360: a host write to CTRL with SRST = 0 stores IE and re-evaluates the line; with
SRST = 1 it is the reset of the power-on input and nothing else. -/
def Obligations.CtrlWriteStoresOrResets : Prop :=
  ∀ (s : State) (v : Word),
    (v.getLsbD 1 = false →
      busWrite (s.params.base + 0x08) 4 v s =
        .next
          { s with
            ctl := { s.ctl with ie := v.getLsbD 0, irq := v.getLsbD 0 && (s.ctl.done || s.ctl.err) } }) ∧
    (v.getLsbD 1 = true → busWrite (s.params.base + 0x08) 4 v s = turnStep .powerOnReset s)

/-- 20_memory R84: an access inside the window of another width or alignment is a BusError. That an access outside the
window is refused as platformAddress is the model's choice (notes/assumptions/13.md): R85 leaves it to the platform. -/
def Obligations.OtherAccessesStop : Prop :=
  ∀ (s : State) (addr width : Nat) (v : Word),
    (s.params.base ≤ addr → addr < s.params.base + 0x4000 → (width ≠ 4 ∨ (addr - s.params.base) % 4 ≠ 0) →
      busRead addr width s = .fault .busError ∧ busWrite addr width v s = .fault .busError) ∧
    ((addr < s.params.base ∨ s.params.base + 0x4000 ≤ addr) →
      busRead addr width s = .refused .platformAddress ∧ busWrite addr width v s = .refused .platformAddress)

/-- 10_state R58, 41_gf R184, R185, R178: the registers after the reset sequence. -/
def Obligations.ResetRegisterValues : Prop :=
  State.reset.statusWord = 0x00000010 ∧ State.reset.errcodeWord = 0 ∧ State.reset.ctl.ie = false ∧
    State.reset.ctl.cmdLast = 0 ∧ State.reset.ctl.seq = .idle ∧ State.reset.ctl.irq = false ∧
    State.reset.pke.len = 0 ∧ State.reset.gf.a = 0 ∧ State.reset.gf.b = 0 ∧ State.reset.gf.res = 0 ∧
    State.reset.readReg .id = 0x50594352 ∧
    State.reset.readReg .config = 0x00010000 + BitVec.ofNat 32 State.reset.params.maxLimbs ∧
    (∀ i : Fin 256, State.reset.pke.a.get i = 0 ∧ State.reset.pke.b.get i = 0 ∧ State.reset.pke.e.get i = 0 ∧
      State.reset.pke.n.get i = 0 ∧ State.reset.pke.r.get i = 0) ∧
    (∀ i : Fin 8, State.reset.aes.key.get i = 0 ∧ State.reset.sha.h.get i = 0) ∧
    (∀ i : Fin 4, State.reset.aes.data.get i = 0) ∧ (∀ i : Fin 60, State.reset.aes.rk.get i = 0) ∧
    (∀ i : Fin 16, State.reset.sha.w.get i = 0 ∧ State.reset.tables.rcon.get i = rconWord i.val) ∧
    (∀ i : Fin 64, State.reset.sha.sched.get i = 0) ∧
    (∀ x : Fin 256, State.reset.tables.sbox.get x = (sbox (BitVec.ofNat 8 x.val)).setWidth 32 ∧
      State.reset.tables.invSbox.get (sbox (BitVec.ofNat 8 x.val)).toFin = BitVec.ofNat 32 x.val)

/-- 70_reset_and_hazards R361, R362, R363, 10_state R58: from any state, whatever runs, the reset step and then the
completion of its table generation give the engine the state after reset; the host, its turns and the parameters stay. -/
def Obligations.ResetSequenceReachesReset : Prop :=
  ∀ s : State,
    s.engineReset.ctl.seq = .tblgenReset ∧
      sequencerStep s.engineReset =
        .next
          { State.reset with params := s.params, host := s.host, turns := s.turns, draws := s.draws }

/-- 10_state R57, R38, R36, R43, 41_gf R179, 60_exceptions R325: the invariant of the engine (the line, ERR and ERRCODE,
KEYLEN and NR, the tables, the missing slots, a running command whose checks still pass, the host's variables) is kept by
every step. The form of the variables and of the missing slots is the model's choice (notes/assumptions/5.md, 12.md). -/
def Obligations.StepKeepsInvariant : Prop :=
  ∀ s t : State, s.Inv → step s = .next t → t.Inv

/-- The state after reset meets the invariant of StepKeepsInvariant (10_state R58). -/
def Obligations.ResetMeetsInvariant : Prop := State.reset.Inv

/-- 00_scope R8, 10_state R30: no step changes a parameter of the instance. -/
def Obligations.StepKeepsParameters : Prop :=
  ∀ s t : State, step s = .next t → t.params = s.params ∧ t.host.program = s.host.program

/-- 60_exceptions R325, 20_memory R84, R85: while every access of the host's program is an aligned 32-bit access of the
window, no step stops, whatever the registers hold and whoever moves. -/
def Obligations.AcceptedProgramsNeverStop : Prop :=
  ∀ s : State, s.safeProgram = true → ∃ t : State, step s = .next t ∧ t.safeProgram = true

/-- 70_reset_and_hazards R372: progress. A run that does not stop has an idle sequencer at one of its first states, at the
latest one step after its list of turns is used up. That a finite list orders the turns is the model's choice
(notes/assumptions/3.md). -/
def Obligations.SequencerBecomesIdle : Prop :=
  ∀ s : State,
    (∀ k : Nat, k ≤ s.turns.length → ∃ t : State, runSteps k s = .next t) →
    ∃ (k : Nat) (t : State), k ≤ s.turns.length + 1 ∧ runSteps k s = .next t ∧ t.ctl.seq = .idle

/-- 41_gf R186: multiplication is commutative, distributes over XOR-addition, and a nonzero element times its inverse is
1. -/
def Obligations.FieldLaws : Prop :=
  (∀ a b : Byte, gfmul a b = gfmul b a) ∧ (∀ a b c : Byte, gfmul a (b ^^^ c) = gfmul a b ^^^ gfmul a c) ∧
    ∀ a : Byte, a ≠ 0 → gfmul a (gfinv a) = 1

/-- 41_gf R176, R177, R184, R185: the S-box computed by R176 is the one R184 lists, and the inverse S-box is its inverse on
both sides. -/
def Obligations.SboxIsListedAndInverted : Prop :=
  ∀ x : Byte, sbox x = sboxListed x ∧ invSbox (sbox x) = x ∧ sbox (invSbox x) = x

/-- 40_pke R145: the reference algorithm returns (a ^ e) mod n for every n >= 1. -/
def Obligations.ReferenceAlgorithmIsPower : Prop :=
  ∀ a e n : Nat, 1 ≤ n → modexpRef a e n = a ^ e % n

/-- 40_pke R151, R148: the Montgomery identities, for an odd modulus. -/
def Obligations.MontgomeryIdentities : Prop :=
  ∀ L n x y z : Nat, n % 2 = 1 → x < n → y < n → z < n →
    let rr := modexpRef 2 (64 * L) n
    let mont := montProduct L n
    mont x rr = x * radix L % n ∧
      mont (mont x rr) (mont y rr) = x * y * radix L % n ∧
      mont z 1 * radix L % n = z ∧
      mont (mont x rr) y = x * y % n

/-- 40_pke R149: RSA_CRYPT with e and then with d gives the message back, for two distinct primes, at the level of the
commands: each is issued with the sequencer idle and a legal limb count. -/
def Obligations.RsaRoundTrip : Prop :=
  ∀ (p q e d m : Nat) (s : State),
    Nat.Prime p → Nat.Prime q → p ≠ q → e * d % Nat.lcm (p - 1) (q - 1) = 1 % Nat.lcm (p - 1) (q - 1) →
    s.params.Legal → s.ctl.seq = .idle → 1 ≤ s.limbs → s.limbs ≤ s.params.maxLimbs →
    s.opN = p * q → s.opE = e → s.opA = m → m < p * q →
    ∃ t : State,
      perform .rsaCrypt s = .next t ∧
        ∀ u : State,
          u.params.Legal → u.ctl.seq = .idle → u.limbs = s.limbs → u.limbs ≤ u.params.maxLimbs →
          u.opN = p * q → u.opE = d → u.opA = valL s.limbs t.pke.r →
          ∃ v : State, perform .rsaCrypt u = .next v ∧ valL u.limbs v.pke.r = m

/-- 42_aes R223: AES_ENC and then AES_DEC with the same schedule leave the block as it was. -/
def Obligations.AesRoundTrip : Prop :=
  ∀ s : State, s.ctl.seq = .idle → s.aes.keyValid = true →
    ∃ t u : State,
      perform .aesEnc s = .next t ∧ perform .aesDec t = .next u ∧ u.aes.data = s.aes.data

/-- 42_aes R225: the single-transform commands in the order of R225 leave AES_DATA as one AES_ENC does, and those in the
order of R212 as one AES_DEC does. -/
def Obligations.PipelineEqualsCipher : Prop :=
  ∀ s : State, s.ctl.seq = .idle → s.aes.keyValid = true → s.KeyInv →
    (∃ t u : State,
      performAll (encPipeline s.aes.nr.toNat) s = .next t ∧ perform .aesEnc s = .next u ∧
        t.aes.data = u.aes.data) ∧
    (∃ t u : State,
      performAll (decPipeline s.aes.nr.toNat) s = .next t ∧ perform .aesDec s = .next u ∧
        t.aes.data = u.aes.data)

/-- 30_encoding R125: the host pc. It starts at 0 and goes on by 1 after each statement that completes, but for a taken
`jbit` or a `jmp`, which set it, and `halt`, which ends the run; `fail` ends it too. That the sum of a `rdint` and the
assertion of an `expect` are statements (`sumLimbs`, `check`), with an index and a host step of their own, is the model's
choice (notes/assumptions/14.md), no rule of the spec. -/
def Obligations.HostProgramCounter : Prop :=
  State.reset.host.pc = 0 ∧
  ∀ (s : State) (st : Stmt), s.host.run = .running → s.host.program[s.host.pc]? = some st →
    match st with
    | .memWrite _ _ _ => ∀ t : State, hostStep s = .next t → t.host = { s.host with pc := s.host.pc + 1 }
    | .memRead _ _ x =>
      ∀ t : State, hostStep s = .next t →
        t.host.pc = s.host.pc + 1 ∧ t.host.run = .running ∧ t.host.program = s.host.program ∧
          (x = none → t.host.vars = s.host.vars)
    | .jbit x k target =>
      hostStep s =
        .next
          (if (varsGet s.host.vars x).testBit k then
            (match target with
              | .index n => { s with host := { s.host with pc := n } }
              | .fail => { s with host := { s.host with run := .failed } })
          else { s with host := { s.host with pc := s.host.pc + 1 } })
    | .jmp target =>
      hostStep s =
        .next
          (match target with
            | .index n => { s with host := { s.host with pc := n } }
            | .fail => { s with host := { s.host with run := .failed } })
    | .sumLimbs x parts =>
      hostStep s =
        .next
          { s with
            host :=
              { s.host with
                pc := s.host.pc + 1
                vars := varsSet s.host.vars x (sumParts s.host.vars parts) } }
    | .check x v =>
      hostStep s =
        .next
          (if varsGet s.host.vars x = v then { s with host := { s.host with pc := s.host.pc + 1 } }
          else { s with host := { s.host with run := .failed } })
    | .halt => hostStep s = .next { s with host := { s.host with run := .halted } }

/-- 30_encoding R121: a host read binds the variable it names to the word read, and no other variable changes. The
variables are in their canonical form, which is the model's (notes/assumptions/5.md) and which StepKeepsInvariant keeps. -/
def Obligations.HostReadBindsItsVariable : Prop :=
  ∀ (s : State) (off x : Nat) (w : Word) (s' : State),
    varsWf s.host.vars = true → s.host.run = .running → s.host.program[s.host.pc]? = some (.memRead (s.params.base + off) 4 (some x)) →
    busRead (s.params.base + off) 4 s = .next (w, s') →
    ∃ t : State,
      hostStep s = .next t ∧ varsGet t.host.vars x = w.toNat ∧
        (∀ y : Nat, y ≠ x → varsGet t.host.vars y = varsGet s.host.vars y) ∧
        t = { s' with host := { s.host with pc := s.host.pc + 1, vars := t.host.vars } }

/-- 48_host_library R285: `extendedEuclid(a, b)` returns the greatest common divisor and a pair of coefficients of it. -/
def Obligations.ExtendedEuclidBezout : Prop :=
  ∀ a b : Nat,
    let r := extendedEuclid a b
    r.1 = Nat.gcd a b ∧ (a : Int) * r.2.1 + (b : Int) * r.2.2 = (r.1 : Int)

/-- 48_host_library R286: `modInverse(a, m)` fails with NoInverseError when m = 0 or gcd(a, m) is not 1, and otherwise
returns the inverse in [0, m). -/
def Obligations.ModInverseIsInverse : Prop :=
  ∀ a m : Nat,
    ((m = 0 ∨ Nat.gcd a m ≠ 1) → modInverse a m = .error .noInverse) ∧
    (m ≠ 0 → Nat.gcd a m = 1 → ∃ x : Nat, modInverse a m = .ok x ∧ x < m ∧ a * x % m = 1 % m)

/-- 48_host_library R292: `pad` keeps the message, adds 0x80, then zeros, then the bit length in 8 bytes, big-endian, to a
multiple of 64 bytes with fewer than 64 zeros; it fails where the bit length needs more than 64 bits. -/
def Obligations.PaddingFillsBlocks : Prop :=
  ∀ m : List Byte,
    (2 ^ 64 ≤ 8 * m.length → pad m = .error .hashTooLarge) ∧
    (8 * m.length < 2 ^ 64 →
      ∃ z : Nat, z < 64 ∧ (m.length + 1 + z) % 64 = 56 ∧
        pad m =
          .ok
            (m ++ [0x80] ++ List.replicate z 0 ++
              (List.range 8).map fun k => BitVec.ofNat 8 (8 * m.length / 256 ^ (7 - k))))
end

