-- ==== Sys2Proof/Laws/Bank.lean ====
section
/-! SUPPORT. Register arrays: a read after a write, the built arrays, and equality word by word. -/

namespace Sys2Proof

variable {n : Nat}

theorem Bank.get_eq_getElem (b : Bank n) (i : Fin n) :
    b.get i = b.words[i.val]'(by rw [b.length_eq]; exact i.isLt) := rfl

/-- Two arrays are equal when every word of one is the word of the other. -/
theorem Bank.ext_get {a b : Bank n} (h : ∀ i : Fin n, a.get i = b.get i) : a = b := by
  obtain ⟨xs, hx⟩ := a
  obtain ⟨ys, hy⟩ := b
  congr 1
  refine List.ext_getElem (by rw [hx, hy]) fun k h1 _ => ?_
  exact h ⟨k, hx ▸ h1⟩

@[simp] theorem Bank.get_ofFn (f : Fin n → Word) (i : Fin n) : (Bank.ofFn f).get i = f i := by
  simp [Bank.get_eq_getElem, Bank.ofFn]

@[simp] theorem Bank.get_zero (i : Fin n) : (Bank.zero n).get i = 0 := by
  simp [Bank.get_eq_getElem, Bank.zero]

@[simp] theorem Bank.get_set_self (b : Bank n) (i : Fin n) (v : Word) : (b.set i v).get i = v := by
  simp [Bank.get_eq_getElem, Bank.set]

@[simp] theorem Bank.get_set_ne (b : Bank n) (i j : Fin n) (v : Word) (h : i ≠ j) :
    (b.set i v).get j = b.get j := by
  have hv : i.val ≠ j.val := fun e => h (Fin.ext e)
  simp [Bank.get_eq_getElem, Bank.set, hv]

theorem Bank.getD_of_lt (b : Bank n) (k : Nat) (h : k < n) : b.getD k = b.get ⟨k, h⟩ := by
  have hk : k < b.words.length := by rw [b.length_eq]; exact h
  simp [Bank.getD, Bank.get_eq_getElem, List.getD_eq_getElem?_getD, hk]

theorem Bank.getD_of_le (b : Bank n) (k : Nat) (h : n ≤ k) : b.getD k = 0 := by
  have hk : b.words.length ≤ k := by rw [b.length_eq]; exact h
  simp [Bank.getD, List.getD_eq_getElem?_getD, hk]

/-- A lane of a packed word is the byte put there (00_scope R10). -/
@[simp] theorem lane_packBytes (b0 b1 b2 b3 : Byte) :
    lane (packBytes b0 b1 b2 b3) 0 = b0 ∧ lane (packBytes b0 b1 b2 b3) 1 = b1 ∧
      lane (packBytes b0 b1 b2 b3) 2 = b2 ∧ lane (packBytes b0 b1 b2 b3) 3 = b3 := by
  refine ⟨?_, ?_, ?_, ?_⟩ <;>
    (apply BitVec.eq_of_getLsbD_eq
     intro k hk
     simp only [lane, packBytes, BitVec.getLsbD_extractLsb', BitVec.getLsbD_append]
     grind)

/-- A word is the packing of its lanes. -/
theorem packBytes_lanes (w : Word) : packBytes (lane w 0) (lane w 1) (lane w 2) (lane w 3) = w := by
  apply BitVec.eq_of_getLsbD_eq
  intro k hk
  simp only [lane, packBytes, BitVec.getLsbD_extractLsb', BitVec.getLsbD_append]
  grind

end Sys2Proof
end

