-- ==== Sys2Proof/Laws/State.lean ====
section
/-! SUPPORT. What each update of the state does to each part of it. -/

namespace Sys2Proof.Machine

@[simp] theorem State.refreshIrq_params (s : State) : (s.refreshIrq).params = s.params := rfl
@[simp] theorem State.refreshIrq_ctl (s : State) :
    (s.refreshIrq).ctl =
      { s.ctl with irq := s.ctl.ie && (s.ctl.done || s.ctl.err) } := rfl
@[simp] theorem State.refreshIrq_pke (s : State) : (s.refreshIrq).pke = s.pke := rfl
@[simp] theorem State.refreshIrq_gf (s : State) : (s.refreshIrq).gf = s.gf := rfl
@[simp] theorem State.refreshIrq_tables (s : State) : (s.refreshIrq).tables = s.tables := rfl
@[simp] theorem State.refreshIrq_aes (s : State) : (s.refreshIrq).aes = s.aes := rfl
@[simp] theorem State.refreshIrq_sha (s : State) : (s.refreshIrq).sha = s.sha := rfl
@[simp] theorem State.refreshIrq_host (s : State) : (s.refreshIrq).host = s.host := rfl
@[simp] theorem State.refreshIrq_turns (s : State) : (s.refreshIrq).turns = s.turns := rfl
@[simp] theorem State.refreshIrq_draws (s : State) : (s.refreshIrq).draws = s.draws := rfl

@[simp] theorem State.reject_params (opc : Byte) (code : ErrCode) (s : State) :
    (s.reject opc code).params =
      s.params := rfl
@[simp] theorem State.reject_ctl (opc : Byte) (code : ErrCode) (s : State) :
    (s.reject opc code).ctl =
      { s.ctl with err := true, errCode := code.code, errOpc := opc, irq := s.ctl.ie && (s.ctl.done || true) } := rfl
@[simp] theorem State.reject_pke (opc : Byte) (code : ErrCode) (s : State) : (s.reject opc code).pke = s.pke := rfl
@[simp] theorem State.reject_gf (opc : Byte) (code : ErrCode) (s : State) : (s.reject opc code).gf = s.gf := rfl
@[simp] theorem State.reject_tables (opc : Byte) (code : ErrCode) (s : State) :
    (s.reject opc code).tables =
      s.tables := rfl
@[simp] theorem State.reject_aes (opc : Byte) (code : ErrCode) (s : State) : (s.reject opc code).aes = s.aes := rfl
@[simp] theorem State.reject_sha (opc : Byte) (code : ErrCode) (s : State) : (s.reject opc code).sha = s.sha := rfl
@[simp] theorem State.reject_host (opc : Byte) (code : ErrCode) (s : State) : (s.reject opc code).host = s.host := rfl
@[simp] theorem State.reject_turns (opc : Byte) (code : ErrCode) (s : State) :
    (s.reject opc code).turns =
      s.turns := rfl
@[simp] theorem State.reject_draws (opc : Byte) (code : ErrCode) (s : State) :
    (s.reject opc code).draws =
      s.draws := rfl

@[simp] theorem State.accept_params (i : Instr) (s : State) : (s.accept i).params = s.params := rfl
@[simp] theorem State.accept_ctl (i : Instr) (s : State) :
    (s.accept i).ctl =
      { s.ctl with seq := .busy i, irq := s.ctl.ie && (s.ctl.done || s.ctl.err) } := rfl
@[simp] theorem State.accept_pke (i : Instr) (s : State) : (s.accept i).pke = s.pke := rfl
@[simp] theorem State.accept_gf (i : Instr) (s : State) : (s.accept i).gf = s.gf := rfl
@[simp] theorem State.accept_tables (i : Instr) (s : State) : (s.accept i).tables = s.tables := rfl
@[simp] theorem State.accept_aes (i : Instr) (s : State) : (s.accept i).aes = s.aes := rfl
@[simp] theorem State.accept_sha (i : Instr) (s : State) : (s.accept i).sha = s.sha := rfl
@[simp] theorem State.accept_host (i : Instr) (s : State) : (s.accept i).host = s.host := rfl
@[simp] theorem State.accept_turns (i : Instr) (s : State) : (s.accept i).turns = s.turns := rfl
@[simp] theorem State.accept_draws (i : Instr) (s : State) : (s.accept i).draws = s.draws := rfl

@[simp] theorem State.finish_params (s : State) : (s.finish).params = s.params := rfl
@[simp] theorem State.finish_ctl (s : State) :
    (s.finish).ctl =
      { s.ctl with seq := .idle, done := true, irq := s.ctl.ie && (true || s.ctl.err) } := rfl
@[simp] theorem State.finish_pke (s : State) : (s.finish).pke = s.pke := rfl
@[simp] theorem State.finish_gf (s : State) : (s.finish).gf = s.gf := rfl
@[simp] theorem State.finish_tables (s : State) : (s.finish).tables = s.tables := rfl
@[simp] theorem State.finish_aes (s : State) : (s.finish).aes = s.aes := rfl
@[simp] theorem State.finish_sha (s : State) : (s.finish).sha = s.sha := rfl
@[simp] theorem State.finish_host (s : State) : (s.finish).host = s.host := rfl
@[simp] theorem State.finish_turns (s : State) : (s.finish).turns = s.turns := rfl
@[simp] theorem State.finish_draws (s : State) : (s.finish).draws = s.draws := rfl

@[simp] theorem State.finishReset_params (s : State) : (s.finishReset).params = s.params := rfl
@[simp] theorem State.finishReset_ctl (s : State) :
    (s.finishReset).ctl =
      { s.ctl with seq := .idle, irq := s.ctl.ie && (s.ctl.done || s.ctl.err) } := rfl
@[simp] theorem State.finishReset_pke (s : State) : (s.finishReset).pke = s.pke := rfl
@[simp] theorem State.finishReset_gf (s : State) : (s.finishReset).gf = s.gf := rfl
@[simp] theorem State.finishReset_tables (s : State) : (s.finishReset).tables = s.tables := rfl
@[simp] theorem State.finishReset_aes (s : State) : (s.finishReset).aes = s.aes := rfl
@[simp] theorem State.finishReset_sha (s : State) : (s.finishReset).sha = s.sha := rfl
@[simp] theorem State.finishReset_host (s : State) : (s.finishReset).host = s.host := rfl
@[simp] theorem State.finishReset_turns (s : State) : (s.finishReset).turns = s.turns := rfl
@[simp] theorem State.finishReset_draws (s : State) : (s.finishReset).draws = s.draws := rfl

@[simp] theorem State.withPkeR_params (r : Bank 256) (s : State) : (s.withPkeR r).params = s.params := rfl
@[simp] theorem State.withPkeR_ctl (r : Bank 256) (s : State) : (s.withPkeR r).ctl = s.ctl := rfl
@[simp] theorem State.withPkeR_pke (r : Bank 256) (s : State) : (s.withPkeR r).pke = { s.pke with r := r } := rfl
@[simp] theorem State.withPkeR_gf (r : Bank 256) (s : State) : (s.withPkeR r).gf = s.gf := rfl
@[simp] theorem State.withPkeR_tables (r : Bank 256) (s : State) : (s.withPkeR r).tables = s.tables := rfl
@[simp] theorem State.withPkeR_aes (r : Bank 256) (s : State) : (s.withPkeR r).aes = s.aes := rfl
@[simp] theorem State.withPkeR_sha (r : Bank 256) (s : State) : (s.withPkeR r).sha = s.sha := rfl
@[simp] theorem State.withPkeR_host (r : Bank 256) (s : State) : (s.withPkeR r).host = s.host := rfl
@[simp] theorem State.withPkeR_turns (r : Bank 256) (s : State) : (s.withPkeR r).turns = s.turns := rfl
@[simp] theorem State.withPkeR_draws (r : Bank 256) (s : State) : (s.withPkeR r).draws = s.draws := rfl

@[simp] theorem State.withGfRes_params (v : Byte) (s : State) : (s.withGfRes v).params = s.params := rfl
@[simp] theorem State.withGfRes_ctl (v : Byte) (s : State) : (s.withGfRes v).ctl = s.ctl := rfl
@[simp] theorem State.withGfRes_pke (v : Byte) (s : State) : (s.withGfRes v).pke = s.pke := rfl
@[simp] theorem State.withGfRes_gf (v : Byte) (s : State) : (s.withGfRes v).gf = { s.gf with res := v } := rfl
@[simp] theorem State.withGfRes_tables (v : Byte) (s : State) : (s.withGfRes v).tables = s.tables := rfl
@[simp] theorem State.withGfRes_aes (v : Byte) (s : State) : (s.withGfRes v).aes = s.aes := rfl
@[simp] theorem State.withGfRes_sha (v : Byte) (s : State) : (s.withGfRes v).sha = s.sha := rfl
@[simp] theorem State.withGfRes_host (v : Byte) (s : State) : (s.withGfRes v).host = s.host := rfl
@[simp] theorem State.withGfRes_turns (v : Byte) (s : State) : (s.withGfRes v).turns = s.turns := rfl
@[simp] theorem State.withGfRes_draws (v : Byte) (s : State) : (s.withGfRes v).draws = s.draws := rfl

@[simp] theorem State.withTables_params (t : Tables) (s : State) : (s.withTables t).params = s.params := rfl
@[simp] theorem State.withTables_ctl (t : Tables) (s : State) : (s.withTables t).ctl = s.ctl := rfl
@[simp] theorem State.withTables_pke (t : Tables) (s : State) : (s.withTables t).pke = s.pke := rfl
@[simp] theorem State.withTables_gf (t : Tables) (s : State) : (s.withTables t).gf = s.gf := rfl
@[simp] theorem State.withTables_tables (t : Tables) (s : State) : (s.withTables t).tables = t := rfl
@[simp] theorem State.withTables_aes (t : Tables) (s : State) : (s.withTables t).aes = s.aes := rfl
@[simp] theorem State.withTables_sha (t : Tables) (s : State) : (s.withTables t).sha = s.sha := rfl
@[simp] theorem State.withTables_host (t : Tables) (s : State) : (s.withTables t).host = s.host := rfl
@[simp] theorem State.withTables_turns (t : Tables) (s : State) : (s.withTables t).turns = s.turns := rfl
@[simp] theorem State.withTables_draws (t : Tables) (s : State) : (s.withTables t).draws = s.draws := rfl

@[simp] theorem State.withSchedule_params (rk : Bank 60) (kl : BitVec 2) (nr : BitVec 4) (s : State) :
    (s.withSchedule rk kl nr).params =
      s.params := rfl
@[simp] theorem State.withSchedule_ctl (rk : Bank 60) (kl : BitVec 2) (nr : BitVec 4) (s : State) :
    (s.withSchedule rk kl nr).ctl =
      s.ctl := rfl
@[simp] theorem State.withSchedule_pke (rk : Bank 60) (kl : BitVec 2) (nr : BitVec 4) (s : State) :
    (s.withSchedule rk kl nr).pke =
      s.pke := rfl
@[simp] theorem State.withSchedule_gf (rk : Bank 60) (kl : BitVec 2) (nr : BitVec 4) (s : State) :
    (s.withSchedule rk kl nr).gf =
      s.gf := rfl
@[simp] theorem State.withSchedule_tables (rk : Bank 60) (kl : BitVec 2) (nr : BitVec 4) (s : State) :
    (s.withSchedule rk kl nr).tables =
      s.tables := rfl
@[simp] theorem State.withSchedule_aes (rk : Bank 60) (kl : BitVec 2) (nr : BitVec 4) (s : State) :
    (s.withSchedule rk kl nr).aes =
      { s.aes with rk := rk, keyValid := true, keylen := kl, nr := nr } := rfl
@[simp] theorem State.withSchedule_sha (rk : Bank 60) (kl : BitVec 2) (nr : BitVec 4) (s : State) :
    (s.withSchedule rk kl nr).sha =
      s.sha := rfl
@[simp] theorem State.withSchedule_host (rk : Bank 60) (kl : BitVec 2) (nr : BitVec 4) (s : State) :
    (s.withSchedule rk kl nr).host =
      s.host := rfl
@[simp] theorem State.withSchedule_turns (rk : Bank 60) (kl : BitVec 2) (nr : BitVec 4) (s : State) :
    (s.withSchedule rk kl nr).turns =
      s.turns := rfl
@[simp] theorem State.withSchedule_draws (rk : Bank 60) (kl : BitVec 2) (nr : BitVec 4) (s : State) :
    (s.withSchedule rk kl nr).draws =
      s.draws := rfl

@[simp] theorem State.withAesData_params (d : Bank 4) (s : State) : (s.withAesData d).params = s.params := rfl
@[simp] theorem State.withAesData_ctl (d : Bank 4) (s : State) : (s.withAesData d).ctl = s.ctl := rfl
@[simp] theorem State.withAesData_pke (d : Bank 4) (s : State) : (s.withAesData d).pke = s.pke := rfl
@[simp] theorem State.withAesData_gf (d : Bank 4) (s : State) : (s.withAesData d).gf = s.gf := rfl
@[simp] theorem State.withAesData_tables (d : Bank 4) (s : State) : (s.withAesData d).tables = s.tables := rfl
@[simp] theorem State.withAesData_aes (d : Bank 4) (s : State) :
    (s.withAesData d).aes =
      { s.aes with data := d } := rfl
@[simp] theorem State.withAesData_sha (d : Bank 4) (s : State) : (s.withAesData d).sha = s.sha := rfl
@[simp] theorem State.withAesData_host (d : Bank 4) (s : State) : (s.withAesData d).host = s.host := rfl
@[simp] theorem State.withAesData_turns (d : Bank 4) (s : State) : (s.withAesData d).turns = s.turns := rfl
@[simp] theorem State.withAesData_draws (d : Bank 4) (s : State) : (s.withAesData d).draws = s.draws := rfl

@[simp] theorem State.withShaH_params (h : Bank 8) (s : State) : (s.withShaH h).params = s.params := rfl
@[simp] theorem State.withShaH_ctl (h : Bank 8) (s : State) : (s.withShaH h).ctl = s.ctl := rfl
@[simp] theorem State.withShaH_pke (h : Bank 8) (s : State) : (s.withShaH h).pke = s.pke := rfl
@[simp] theorem State.withShaH_gf (h : Bank 8) (s : State) : (s.withShaH h).gf = s.gf := rfl
@[simp] theorem State.withShaH_tables (h : Bank 8) (s : State) : (s.withShaH h).tables = s.tables := rfl
@[simp] theorem State.withShaH_aes (h : Bank 8) (s : State) : (s.withShaH h).aes = s.aes := rfl
@[simp] theorem State.withShaH_sha (h : Bank 8) (s : State) : (s.withShaH h).sha = { s.sha with h := h } := rfl
@[simp] theorem State.withShaH_host (h : Bank 8) (s : State) : (s.withShaH h).host = s.host := rfl
@[simp] theorem State.withShaH_turns (h : Bank 8) (s : State) : (s.withShaH h).turns = s.turns := rfl
@[simp] theorem State.withShaH_draws (h : Bank 8) (s : State) : (s.withShaH h).draws = s.draws := rfl

@[simp] theorem State.withShaSched_params (w : Bank 64) (s : State) : (s.withShaSched w).params = s.params := rfl
@[simp] theorem State.withShaSched_ctl (w : Bank 64) (s : State) : (s.withShaSched w).ctl = s.ctl := rfl
@[simp] theorem State.withShaSched_pke (w : Bank 64) (s : State) : (s.withShaSched w).pke = s.pke := rfl
@[simp] theorem State.withShaSched_gf (w : Bank 64) (s : State) : (s.withShaSched w).gf = s.gf := rfl
@[simp] theorem State.withShaSched_tables (w : Bank 64) (s : State) : (s.withShaSched w).tables = s.tables := rfl
@[simp] theorem State.withShaSched_aes (w : Bank 64) (s : State) : (s.withShaSched w).aes = s.aes := rfl
@[simp] theorem State.withShaSched_sha (w : Bank 64) (s : State) :
    (s.withShaSched w).sha =
      { s.sha with sched := w } := rfl
@[simp] theorem State.withShaSched_host (w : Bank 64) (s : State) : (s.withShaSched w).host = s.host := rfl
@[simp] theorem State.withShaSched_turns (w : Bank 64) (s : State) : (s.withShaSched w).turns = s.turns := rfl
@[simp] theorem State.withShaSched_draws (w : Bank 64) (s : State) : (s.withShaSched w).draws = s.draws := rfl

@[simp] theorem State.engineReset_params (s : State) : (s.engineReset).params = s.params := rfl
@[simp] theorem State.engineReset_tables (s : State) : (s.engineReset).tables = Tables.cleared := rfl
@[simp] theorem State.engineReset_host (s : State) : (s.engineReset).host = s.host := rfl
@[simp] theorem State.engineReset_turns (s : State) : (s.engineReset).turns = s.turns := rfl
@[simp] theorem State.engineReset_draws (s : State) : (s.engineReset).draws = s.draws := rfl

@[simp] theorem State.withCmdLast_params (v : Word) (s : State) : (s.withCmdLast v).params = s.params := rfl
@[simp] theorem State.withCmdLast_ctl (v : Word) (s : State) :
    (s.withCmdLast v).ctl =
      { s.ctl with cmdLast := v } := rfl
@[simp] theorem State.withCmdLast_pke (v : Word) (s : State) : (s.withCmdLast v).pke = s.pke := rfl
@[simp] theorem State.withCmdLast_gf (v : Word) (s : State) : (s.withCmdLast v).gf = s.gf := rfl
@[simp] theorem State.withCmdLast_tables (v : Word) (s : State) : (s.withCmdLast v).tables = s.tables := rfl
@[simp] theorem State.withCmdLast_aes (v : Word) (s : State) : (s.withCmdLast v).aes = s.aes := rfl
@[simp] theorem State.withCmdLast_sha (v : Word) (s : State) : (s.withCmdLast v).sha = s.sha := rfl
@[simp] theorem State.withCmdLast_host (v : Word) (s : State) : (s.withCmdLast v).host = s.host := rfl
@[simp] theorem State.withCmdLast_turns (v : Word) (s : State) : (s.withCmdLast v).turns = s.turns := rfl
@[simp] theorem State.withCmdLast_draws (v : Word) (s : State) : (s.withCmdLast v).draws = s.draws := rfl

@[simp] theorem State.setWib_params (s : State) : (s.setWib).params = s.params := rfl
@[simp] theorem State.setWib_ctl (s : State) : (s.setWib).ctl = { s.ctl with wib := true } := rfl
@[simp] theorem State.setWib_pke (s : State) : (s.setWib).pke = s.pke := rfl
@[simp] theorem State.setWib_gf (s : State) : (s.setWib).gf = s.gf := rfl
@[simp] theorem State.setWib_tables (s : State) : (s.setWib).tables = s.tables := rfl
@[simp] theorem State.setWib_aes (s : State) : (s.setWib).aes = s.aes := rfl
@[simp] theorem State.setWib_sha (s : State) : (s.setWib).sha = s.sha := rfl
@[simp] theorem State.setWib_host (s : State) : (s.setWib).host = s.host := rfl
@[simp] theorem State.setWib_turns (s : State) : (s.setWib).turns = s.turns := rfl
@[simp] theorem State.setWib_draws (s : State) : (s.setWib).draws = s.draws := rfl

@[simp] theorem State.writeStatus_params (v : Word) (s : State) : (s.writeStatus v).params = s.params := rfl
@[simp] theorem State.writeStatus_pke (v : Word) (s : State) : (s.writeStatus v).pke = s.pke := rfl
@[simp] theorem State.writeStatus_gf (v : Word) (s : State) : (s.writeStatus v).gf = s.gf := rfl
@[simp] theorem State.writeStatus_tables (v : Word) (s : State) : (s.writeStatus v).tables = s.tables := rfl
@[simp] theorem State.writeStatus_aes (v : Word) (s : State) : (s.writeStatus v).aes = s.aes := rfl
@[simp] theorem State.writeStatus_sha (v : Word) (s : State) : (s.writeStatus v).sha = s.sha := rfl
@[simp] theorem State.writeStatus_host (v : Word) (s : State) : (s.writeStatus v).host = s.host := rfl
@[simp] theorem State.writeStatus_turns (v : Word) (s : State) : (s.writeStatus v).turns = s.turns := rfl
@[simp] theorem State.writeStatus_draws (v : Word) (s : State) : (s.writeStatus v).draws = s.draws := rfl

@[simp] theorem State.advance_params (s : State) : (s.advance).params = s.params := rfl
@[simp] theorem State.advance_ctl (s : State) : (s.advance).ctl = s.ctl := rfl
@[simp] theorem State.advance_pke (s : State) : (s.advance).pke = s.pke := rfl
@[simp] theorem State.advance_gf (s : State) : (s.advance).gf = s.gf := rfl
@[simp] theorem State.advance_tables (s : State) : (s.advance).tables = s.tables := rfl
@[simp] theorem State.advance_aes (s : State) : (s.advance).aes = s.aes := rfl
@[simp] theorem State.advance_sha (s : State) : (s.advance).sha = s.sha := rfl
@[simp] theorem State.advance_host (s : State) : (s.advance).host = { s.host with pc := s.host.pc + 1 } := rfl
@[simp] theorem State.advance_turns (s : State) : (s.advance).turns = s.turns := rfl
@[simp] theorem State.advance_draws (s : State) : (s.advance).draws = s.draws := rfl

@[simp] theorem State.endRun_params (r : HostRun) (s : State) : (s.endRun r).params = s.params := rfl
@[simp] theorem State.endRun_ctl (r : HostRun) (s : State) : (s.endRun r).ctl = s.ctl := rfl
@[simp] theorem State.endRun_pke (r : HostRun) (s : State) : (s.endRun r).pke = s.pke := rfl
@[simp] theorem State.endRun_gf (r : HostRun) (s : State) : (s.endRun r).gf = s.gf := rfl
@[simp] theorem State.endRun_tables (r : HostRun) (s : State) : (s.endRun r).tables = s.tables := rfl
@[simp] theorem State.endRun_aes (r : HostRun) (s : State) : (s.endRun r).aes = s.aes := rfl
@[simp] theorem State.endRun_sha (r : HostRun) (s : State) : (s.endRun r).sha = s.sha := rfl
@[simp] theorem State.endRun_host (r : HostRun) (s : State) : (s.endRun r).host = { s.host with run := r } := rfl
@[simp] theorem State.endRun_turns (r : HostRun) (s : State) : (s.endRun r).turns = s.turns := rfl
@[simp] theorem State.endRun_draws (r : HostRun) (s : State) : (s.endRun r).draws = s.draws := rfl

@[simp] theorem State.engineReset_seq (s : State) : s.engineReset.ctl.seq = .tblgenReset := rfl
@[simp] theorem State.engineReset_irq (s : State) : s.engineReset.ctl.irq = false := rfl
@[simp] theorem State.engineReset_ie (s : State) : s.engineReset.ctl.ie = false := rfl
@[simp] theorem State.engineReset_done (s : State) : s.engineReset.ctl.done = false := rfl
@[simp] theorem State.engineReset_err (s : State) : s.engineReset.ctl.err = false := rfl
@[simp] theorem State.engineReset_errCode (s : State) : s.engineReset.ctl.errCode = 0 := rfl
@[simp] theorem State.engineReset_errOpc (s : State) : s.engineReset.ctl.errOpc = 0 := rfl
@[simp] theorem State.writeStatus_seq (v : Word) (s : State) : (s.writeStatus v).ctl.seq = s.ctl.seq := rfl
@[simp] theorem State.writeStatus_ie (v : Word) (s : State) : (s.writeStatus v).ctl.ie = s.ctl.ie := rfl
@[simp] theorem State.writeStatus_cmdLast (v : Word) (s : State) : (s.writeStatus v).ctl.cmdLast = s.ctl.cmdLast := rfl

@[simp] theorem State.drawn_fst (s : State) : s.drawn.1 = Config.draw s.draws := rfl
@[simp] theorem State.drawn_snd (s : State) : s.drawn.2 = { s with draws := s.draws + 1 } := rfl
@[simp] theorem State.bind_none (v : Nat) (s : State) : s.bind none v = s := rfl
@[simp] theorem State.bind_some (k v : Nat) (s : State) :
    s.bind (some k) v = { s with host := { s.host with vars := varsSet s.host.vars k v } } := rfl
@[simp] theorem State.goto_index (n : Nat) (s : State) :
    s.goto (.index n) = { s with host := { s.host with pc := n } } := rfl
@[simp] theorem State.goto_fail (s : State) : s.goto .fail = s.endRun .failed := rfl

/-- CTRL with SRST is the reset; without it only IE changes (10_state R35). -/
theorem State.writeCtrl_cases (v : Word) (s : State) :
    (v.getLsbD 1 = true ∧ s.writeCtrl v = s.engineReset) ∨
      (v.getLsbD 1 = false ∧ s.writeCtrl v = { s with ctl := { s.ctl with ie := v.getLsbD 0 } }) := by
  unfold State.writeCtrl
  split <;> simp_all

end Sys2Proof.Machine
end

