-- ==== Sys2Proof/Laws/Ops.lean ====
section
/-! SUPPORT. What the shared operations can do: submission, a command's whole rule, the host's variables. -/

namespace Sys2Proof.Machine

/-- A submission is acceptance, or a rejection with BUSY or with the command's first failing check (60_exceptions R323). -/
theorem State.submit_cases (i : Instr) (f : Option ErrCode) (s : State) :
    (s.ctl.seq ≠ .idle ∧ s.submit i f = s.reject i.opcode .busy) ∨
      (s.ctl.seq = .idle ∧ ∃ code, f = some code ∧ s.submit i f = s.reject i.opcode code) ∨
      (s.ctl.seq = .idle ∧ f = none ∧ s.submit i f = s.accept i) := by
  unfold State.submit
  cases hq : s.ctl.seq <;> cases f <;> simp

theorem State.submit_idle_none (i : Instr) (s : State) (h : s.ctl.seq = .idle) : s.submit i none = s.accept i := by
  simp [State.submit, h]

theorem State.submit_idle_some (i : Instr) (code : ErrCode) (s : State) (h : s.ctl.seq = .idle) :
    s.submit i (some code) = s.reject i.opcode code := by
  simp [State.submit, h]

/-- A running command's turn is its completion (10_state R62). -/
theorem runCommand_busy (i : Instr) (checks : State → Option ErrCode) (effect : State → State) (s : State)
    (h : s.ctl.seq = .busy i) : runCommand i checks effect s = .next (effect s).finish := by
  simp [runCommand, h]

/-- Otherwise a command's rule is its submission (60_exceptions R323). -/
theorem runCommand_submit (i : Instr) (checks : State → Option ErrCode) (effect : State → State) (s : State)
    (h : s.ctl.seq ≠ .busy i) : runCommand i checks effect s = .next (s.submit i (checks s)) := by
  simp [runCommand, h]

/-- Everything a command's rule can answer. -/
theorem runCommand_cases {i : Instr} {checks : State → Option ErrCode} {effect : State → State} {s t : State}
    (h : runCommand i checks effect s = .next t) :
    (s.ctl.seq = .busy i ∧ t = (effect s).finish) ∨
      (s.ctl.seq ≠ .busy i ∧ s.ctl.seq ≠ .idle ∧ t = s.reject i.opcode .busy) ∨
      (s.ctl.seq = .idle ∧ ∃ code, checks s = some code ∧ t = s.reject i.opcode code) ∨
      (s.ctl.seq = .idle ∧ checks s = none ∧ t = s.accept i) := by
  by_cases hb : s.ctl.seq = .busy i
  · rw [runCommand_busy i checks effect s hb] at h
    cases h
    exact .inl ⟨hb, rfl⟩
  · rw [runCommand_submit i checks effect s hb] at h
    cases h
    obtain ⟨hq, e⟩ | ⟨hq, code, hf, e⟩ | ⟨hq, hf, e⟩ := s.submit_cases i (checks s)
    · exact .inr (.inl ⟨hb, hq, e⟩)
    · exact .inr (.inr (.inl ⟨hq, code, hf, e⟩))
    · exact .inr (.inr (.inr ⟨hq, hf, e⟩))

/-- A variable reads as what was bound to it (30_encoding R121). -/
theorem varsGet_varsSet_self (vs : List (Nat × Nat)) (t x : Nat) (h : varsWf vs = true) :
    varsGet (varsSet vs t x) t = x := by
  induction vs with
  | nil => by_cases hx : x = 0 <;> simp [varsSet, varsGet, hx]
  | cons kv rest ih =>
    obtain ⟨k, v⟩ := kv
    have hrest : varsWf rest = true := by
      cases rest with
      | nil => rfl
      | cons kv' r => simp [varsWf] at h; exact h.2
    have habove : ∀ (l : List (Nat × Nat)) (j w : Nat), varsWf ((j, w) :: l) = true → t ≤ j → varsGet l t = 0 := by
      intro l
      induction l with
      | nil => intros; rfl
      | cons kv' r ihr =>
        intro j w hw hj
        obtain ⟨k', v'⟩ := kv'
        simp [varsWf] at hw
        have hne : k' ≠ t := by omega
        simp only [varsGet, if_neg hne]
        exact ihr k' v' hw.2 (by omega)
    by_cases hlt : k < t
    · have hne : k ≠ t := by omega
      simp [varsSet, hlt, varsGet, hne, ih hrest]
    · by_cases heq : k = t
      · subst heq
        by_cases hx : x = 0
        · simp [varsSet, hx, habove rest k v h (Nat.le_refl _)]
        · simp [varsSet, hx, varsGet]
      · by_cases hx : x = 0
        · simp [varsSet, hlt, heq, hx, varsGet, habove rest k v h (by omega)]
        · simp [varsSet, hlt, heq, hx, varsGet]

/-- Binding one variable leaves every other one alone. -/
theorem varsGet_varsSet_ne (vs : List (Nat × Nat)) (t x y : Nat) (h : y ≠ t) :
    varsGet (varsSet vs t x) y = varsGet vs y := by
  induction vs with
  | nil => by_cases hx : x = 0 <;> simp [varsSet, varsGet, hx, h.symm]
  | cons kv rest ih =>
    obtain ⟨k, v⟩ := kv
    by_cases hlt : k < t
    · simp [varsSet, hlt, varsGet, ih]
    · by_cases heq : k = t
      · subst heq
        by_cases hx : x = 0 <;> simp [varsSet, hx, varsGet, h.symm]
      · by_cases hx : x = 0 <;> simp [varsSet, hlt, heq, hx, varsGet, h.symm]

/-- The canonical form, said of the tail and the next key. -/
theorem varsWf_cons (k v : Nat) (rest : List (Nat × Nat)) :
    varsWf ((k, v) :: rest) = true ↔
      v ≠ 0 ∧ varsWf rest = true ∧ ∀ p ∈ rest.head?, k < p.1 := by
  cases rest with
  | nil => simp [varsWf]
  | cons kv r =>
    obtain ⟨k', v'⟩ := kv
    simp [varsWf]
    tauto

/-- The first key after a binding is the bound one or the first one before it. -/
theorem varsSet_head (vs : List (Nat × Nat)) (t x j : Nat) (hj : j < t) (h : ∀ p ∈ vs.head?, j < p.1)
    (hwf : varsWf vs = true) : ∀ p ∈ (varsSet vs t x).head?, j < p.1 := by
  cases vs with
  | nil => by_cases hx : x = 0 <;> simp [varsSet, hx, hj]
  | cons kv rest =>
    obtain ⟨k, v⟩ := kv
    have hk : j < k := h (k, v) (by simp)
    rw [varsWf_cons] at hwf
    by_cases hlt : k < t
    · simpa [varsSet, hlt] using hk
    · by_cases heq : k = t
      · subst heq
        by_cases hx : x = 0
        · simp only [varsSet, Nat.lt_irrefl, if_false, if_true, hx]
          exact fun p hp => Nat.lt_trans hk (hwf.2.2 p hp)
        · simpa [varsSet, hx] using hk
      · by_cases hx : x = 0
        · simpa [varsSet, hlt, heq, hx] using hk
        · simpa [varsSet, hlt, heq, hx] using hj

/-- Binding a variable keeps the canonical form. -/
theorem varsWf_varsSet (vs : List (Nat × Nat)) (t x : Nat) (h : varsWf vs = true) :
    varsWf (varsSet vs t x) = true := by
  induction vs with
  | nil => by_cases hx : x = 0 <;> simp [varsSet, varsWf, hx]
  | cons kv rest ih =>
    obtain ⟨k, v⟩ := kv
    have h' := (varsWf_cons k v rest).1 h
    by_cases hlt : k < t
    · simp only [varsSet, hlt, if_true]
      exact (varsWf_cons _ _ _).2 ⟨h'.1, ih h'.2.1, varsSet_head rest t x k hlt h'.2.2 h'.2.1⟩
    · by_cases heq : k = t
      · subst heq
        by_cases hx : x = 0
        · simpa [varsSet, hx] using h'.2.1
        · simp only [varsSet, Nat.lt_irrefl, if_false, if_true, hx]
          exact (varsWf_cons _ _ _).2 ⟨hx, h'.2.1, h'.2.2⟩
      · by_cases hx : x = 0
        · simpa [varsSet, hlt, heq, hx] using h
        · simp only [varsSet, hlt, heq, if_false, hx]
          exact (varsWf_cons _ _ _).2 ⟨hx, h, by simp; omega⟩

end Sys2Proof.Machine
end

