-- ==== Sys2Proof/Laws/Exec.lean ====
section
/-! SUPPORT. Every command's meaning in one form: its checks and its effect under the one rule for commands. -/

namespace Sys2Proof.Machine

/-- The effect of a command's completion before the end that all completions share. -/
def commandEffect : Instr → State → State
  | .nop => fun s => s
  | .modexp => fun s => s.writeResult (modexpRef s.opA s.opE s.opN)
  | .rsaCrypt => fun s => s.writeResult (modexpRef s.opA s.opE s.opN)
  | .modmul => fun s => s.writeResult (s.opA * s.opB % s.opN)
  | .montmul => fun s => s.writeResult (montProduct s.limbs s.opN s.opA s.opB)
  | .gfadd => fun s => s.withGfRes (gfadd s.gf.a s.gf.b)
  | .gfmul => fun s => s.withGfRes (gfmul s.gf.a s.gf.b)
  | .gfinv => fun s => s.withGfRes (gfinv s.gf.a)
  | .tblGen => fun s => s.withTables (generateTables s.tables)
  | .aesExpand kl => fun s =>
    s.withSchedule (scheduleBank kl s.aes.key) (BitVec.ofNat 2 kl) (BitVec.ofNat 4 (nrOf kl))
  | .aesEnc => fun s => s.withAesData (cipher s.aes.rk s.aes.nr.toNat s.aes.data)
  | .aesDec => fun s => s.withAesData (invCipher s.aes.rk s.aes.nr.toNat s.aes.data)
  | .aesSubBytes => fun s => s.withAesData (subBytes s.aes.data)
  | .aesInvSubBytes => fun s => s.withAesData (invSubBytes s.aes.data)
  | .aesShiftRows => fun s => s.withAesData (shiftRows s.aes.data)
  | .aesInvShiftRows => fun s => s.withAesData (invShiftRows s.aes.data)
  | .aesMixColumns => fun s => s.withAesData (mixColumns s.aes.data)
  | .aesInvMixColumns => fun s => s.withAesData (invMixColumns s.aes.data)
  | .aesAddRoundKey round => fun s => s.withAesData (addRoundKey s.aes.rk round s.aes.data)
  | .shaInit => fun s => s.withShaH (Bank.ofFn fun i => shaH0.getD i.val 0)
  | .shaCompress => fun s => (s.withShaSched (scheduleOf s.sha.w)).withShaH (shaCompressBlock s.sha.h s.sha.w)
  | .shaSchedule => fun s => s.withShaSched (scheduleOf s.sha.w)

/-- Every arm of `exec` is the one rule for commands, with the command's checks and effect. -/
theorem exec_eq (i : Instr) (s : State) : exec i s = runCommand i (commandChecks i) (commandEffect i) s := by
  cases i <;> rfl

/-- A running command's meaning is its completion (10_state R62). -/
theorem exec_busy (i : Instr) (s : State) (h : s.ctl.seq = .busy i) :
    exec i s = .next (commandEffect i s).finish := by
  rw [exec_eq, runCommand_busy _ _ _ _ h]

/-- Otherwise it is the submission (60_exceptions R323). -/
theorem exec_submit (i : Instr) (s : State) (h : s.ctl.seq ≠ .busy i) :
    exec i s = .next (s.submit i (commandChecks i s)) := by
  rw [exec_eq, runCommand_submit _ _ _ _ h]

/-- Everything a command can answer. -/
theorem exec_cases {i : Instr} {s t : State} (h : exec i s = .next t) :
    (s.ctl.seq = .busy i ∧ t = (commandEffect i s).finish) ∨
      (s.ctl.seq ≠ .busy i ∧ s.ctl.seq ≠ .idle ∧ t = s.reject i.opcode .busy) ∨
      (s.ctl.seq = .idle ∧ ∃ code, commandChecks i s = some code ∧ t = s.reject i.opcode code) ∨
      (s.ctl.seq = .idle ∧ commandChecks i s = none ∧ t = s.accept i) := by
  rw [exec_eq] at h
  exact runCommand_cases h

/-- What no command's effect touches. -/
theorem commandEffect_frame (i : Instr) (s : State) :
    (commandEffect i s).params = s.params ∧ (commandEffect i s).ctl = s.ctl ∧
      (commandEffect i s).host = s.host ∧ (commandEffect i s).turns = s.turns ∧
      (commandEffect i s).draws = s.draws := by
  cases i <;> exact ⟨rfl, rfl, rfl, rfl, rfl⟩

end Sys2Proof.Machine
end

