-- ==== Sys2Proof/Laws/Bus.lean ====
section
/-! SUPPORT. What a host access, a host statement and a step can do. -/

namespace Sys2Proof.Machine

/-- A host read changes nothing but the counter of free values (20_memory R86). -/
theorem windowRead_state (off : Nat) (s : State) :
    (windowRead off s).2 = s ∨ (windowRead off s).2 = { s with draws := s.draws + 1 } := by
  unfold windowRead
  split
  · exact .inl rfl
  · dsimp only
    split
    · exact .inl rfl
    · exact .inr rfl
  · split
    · exact .inr rfl
    · exact .inl rfl

/-- Everything a host read can answer (20_memory R83-R86). -/
theorem busRead_cases (addr width : Nat) (s : State) :
    (inWindow s.params addr = false ∧ busRead addr width s = .refused .platformAddress) ∨
      (inWindow s.params addr = true ∧ acceptedAccess s.params addr width = false ∧
        busRead addr width s = .fault .busError) ∨
      (inWindow s.params addr = true ∧ acceptedAccess s.params addr width = true ∧
        busRead addr width s = .next (windowRead (addr - s.params.base) s)) := by
  unfold busRead
  cases inWindow s.params addr <;> cases acceptedAccess s.params addr width <;> simp

/-- Everything a host write can answer (20_memory R83-R87). -/
theorem busWrite_cases (addr width : Nat) (v : Word) (s : State) :
    (inWindow s.params addr = false ∧ busWrite addr width v s = .refused .platformAddress) ∨
      (inWindow s.params addr = true ∧ acceptedAccess s.params addr width = false ∧
        busWrite addr width v s = .fault .busError) ∨
      (inWindow s.params addr = true ∧ acceptedAccess s.params addr width = true ∧
        busWrite addr width v s = windowWrite (addr - s.params.base) v s) := by
  unfold busWrite
  cases inWindow s.params addr <;> cases acceptedAccess s.params addr width <;> simp

/-- Everything a submitted word can do (60_exceptions R323). -/
theorem submitWord_cases (c : Word) (s : State) :
    (s.ctl.seq ≠ .idle ∧ submitWord c s = .next (s.reject (opcField c) .busy)) ∨
      (s.ctl.seq = .idle ∧ ∃ e, decode c = .error e ∧
        submitWord c s = .next (s.reject (opcField c) (rejectionCode e))) ∨
      (s.ctl.seq = .idle ∧ ∃ i, decode c = .ok i ∧ submitWord c s = exec i s) := by
  unfold submitWord State.isBusy
  by_cases hq : s.ctl.seq = .idle
  · cases hd : decode c <;> simp [hq]
  · simp [hq]

/-- Everything a host write at an aligned offset can do (20_memory R87, 10_state R63, R54). -/
theorem windowWrite_cases (off : Nat) (v : Word) (s : State) :
    windowWrite off v s = .next s.refreshIrq ∨
      windowWrite off v s = .next (s.writeCtrl v).refreshIrq ∨
      windowWrite off v s = .next (s.writeStatus v).refreshIrq ∨
      windowWrite off v s = submitWord v (s.withCmdLast v) ∨
      windowWrite off v s = .next s.setWib.refreshIrq ∨
      ∃ l : Loc, locAt s.params.maxLimbs off = some l ∧ s.ctl.seq = .idle ∧
        windowWrite off v s = .next (s.storeReg l v).refreshIrq := by
  unfold windowWrite
  cases hl : locAt s.params.maxLimbs off with
  | none => exact .inl rfl
  | some l =>
    have data : ∀ o : Host.Outcome State Fault Refusal,
        o = (if l.readOnly then .next s.refreshIrq
          else if s.isBusy then .next s.setWib.refreshIrq
          else .next (s.storeReg l v).refreshIrq) →
        o = .next s.refreshIrq ∨ o = .next (s.writeCtrl v).refreshIrq ∨ o = .next (s.writeStatus v).refreshIrq ∨
          o = submitWord v (s.withCmdLast v) ∨ o = .next s.setWib.refreshIrq ∨
          ∃ l' : Loc, some l = some l' ∧ s.ctl.seq = .idle ∧ o = .next (s.storeReg l' v).refreshIrq := by
      intro o ho
      by_cases h1 : l.readOnly = true
      · simp [ho, h1]
      · by_cases h2 : s.isBusy = true
        · simp [ho, h1, h2]
        · have hq : s.ctl.seq = .idle := by simpa [State.isBusy] using h2
          exact .inr (.inr (.inr (.inr (.inr ⟨l, rfl, hq, by simp [ho, h1, h2]⟩))))
    cases l with
    | ctrl => exact .inr (.inl rfl)
    | status => exact .inr (.inr (.inl rfl))
    | cmd => exact .inr (.inr (.inr (.inl rfl)))
    | _ => exact data _ rfl

/-- A host write of a data register changes the register arrays alone. -/
theorem storeReg_frame (l : Loc) (v : Word) (s : State) :
    (s.storeReg l v).params = s.params ∧ (s.storeReg l v).ctl = s.ctl ∧ (s.storeReg l v).tables = s.tables ∧
      (s.storeReg l v).host = s.host ∧ (s.storeReg l v).turns = s.turns ∧ (s.storeReg l v).draws = s.draws := by
  cases l <;> exact ⟨rfl, rfl, rfl, rfl, rfl, rfl⟩

/-- The agent that moves, and the state it moves on (20_memory R93). -/
theorem step_eq (s : State) :
    (s.turns = [] ∧ step s = turnStep s.nextTurn s) ∨
      ∃ t rest, s.turns = t :: rest ∧ step s = turnStep t { s with turns := rest } := by
  cases h : s.turns with
  | nil => exact .inl ⟨rfl, by simp [step, machineStep, h]⟩
  | cons t rest => exact .inr ⟨t, rest, rfl, by simp [step, machineStep, h]⟩

end Sys2Proof.Machine
end

