-- ==== Sys2Proof/Laws/PerInstr.lean ====
section
/-! SUPPORT. The statements said of each command as syntax, one lemma per constructor. -/

namespace Sys2Proof.Laws

/-- The three fields of a command's word are its opcode, its immediate's low 8 bits and zero (30_encoding R110). -/
def EncodeFields.Statement (i : Instr) : Prop :=
  opcField (encode i) = i.opcode ∧ immField (encode i) = BitVec.ofNat 8 i.imm ∧ rsvField (encode i) = 0

/-- The fields of a word put together from them. -/
theorem EncodeFields.of_append (imm opc : Byte) :
    opcField ((0 : BitVec 16) ++ imm ++ opc) = opc ∧ immField ((0 : BitVec 16) ++ imm ++ opc) = imm ∧
      rsvField ((0 : BitVec 16) ++ imm ++ opc) = 0 := by
  refine ⟨?_, ?_, ?_⟩ <;>
    (apply BitVec.eq_of_getLsbD_eq
     intro k hk
     simp only [opcField, immField, rsvField, BitVec.getLsbD_extractLsb', BitVec.getLsbD_append]
     grind)

theorem EncodeFields.nop : EncodeFields.Statement .nop := EncodeFields.of_append _ _
theorem EncodeFields.modexp : EncodeFields.Statement .modexp := EncodeFields.of_append _ _
theorem EncodeFields.rsaCrypt : EncodeFields.Statement .rsaCrypt := EncodeFields.of_append _ _
theorem EncodeFields.modmul : EncodeFields.Statement .modmul := EncodeFields.of_append _ _
theorem EncodeFields.montmul : EncodeFields.Statement .montmul := EncodeFields.of_append _ _
theorem EncodeFields.gfadd : EncodeFields.Statement .gfadd := EncodeFields.of_append _ _
theorem EncodeFields.gfmul : EncodeFields.Statement .gfmul := EncodeFields.of_append _ _
theorem EncodeFields.gfinv : EncodeFields.Statement .gfinv := EncodeFields.of_append _ _
theorem EncodeFields.tblGen : EncodeFields.Statement .tblGen := EncodeFields.of_append _ _
theorem EncodeFields.aesExpand (kl : Nat) : EncodeFields.Statement (.aesExpand kl) := EncodeFields.of_append _ _
theorem EncodeFields.aesEnc : EncodeFields.Statement .aesEnc := EncodeFields.of_append _ _
theorem EncodeFields.aesDec : EncodeFields.Statement .aesDec := EncodeFields.of_append _ _
theorem EncodeFields.aesSubBytes : EncodeFields.Statement .aesSubBytes := EncodeFields.of_append _ _
theorem EncodeFields.aesInvSubBytes : EncodeFields.Statement .aesInvSubBytes := EncodeFields.of_append _ _
theorem EncodeFields.aesShiftRows : EncodeFields.Statement .aesShiftRows := EncodeFields.of_append _ _
theorem EncodeFields.aesInvShiftRows : EncodeFields.Statement .aesInvShiftRows := EncodeFields.of_append _ _
theorem EncodeFields.aesMixColumns : EncodeFields.Statement .aesMixColumns := EncodeFields.of_append _ _
theorem EncodeFields.aesInvMixColumns : EncodeFields.Statement .aesInvMixColumns := EncodeFields.of_append _ _
theorem EncodeFields.aesAddRoundKey (round : Nat) : EncodeFields.Statement (.aesAddRoundKey round) := EncodeFields.of_append _ _
theorem EncodeFields.shaInit : EncodeFields.Statement .shaInit := EncodeFields.of_append _ _
theorem EncodeFields.shaCompress : EncodeFields.Statement .shaCompress := EncodeFields.of_append _ _
theorem EncodeFields.shaSchedule : EncodeFields.Statement .shaSchedule := EncodeFields.of_append _ _

end Sys2Proof.Laws
end

