-- ==== Sys2Proof/Tests/Slice0.lean ====
section
/-! SUPPORT. The model's own tests: ill-formed terms, words of the spec's encodings, vectors of 95_test_vectors, and a witness for the hypotheses of each obligation. -/

namespace Sys2Proof.Tests

open Sys2Proof.Machine

set_option Elab.async false

/-! The checks of WellFormed, each with an ill-formed term. -/

theorem test_aesExpand_immediate_256_ill_formed : ¬(Instr.aesExpand 256).WellFormed := by decide

theorem test_aesAddRoundKey_immediate_256_ill_formed : ¬(Instr.aesAddRoundKey 256).WellFormed := by decide

/-! Words written out from 30_encoding R110 and R114: RSV, IMM8, OPC. -/

theorem test_decode_sequencer_word :
    decode 0b0000000000000000_00000000_00000000 = .ok .nop := by decide +kernel

theorem test_decode_pke_words :
    decode 0b0000000000000000_00000000_00010000 = .ok .modexp ∧
      decode 0b0000000000000000_00000000_00010001 = .ok .rsaCrypt ∧
      decode 0b0000000000000000_00000000_00010010 = .ok .modmul ∧
      decode 0b0000000000000000_00000000_00010011 = .ok .montmul := by decide +kernel

theorem test_decode_gf_words :
    decode 0b0000000000000000_00000000_00100000 = .ok .gfadd ∧
      decode 0b0000000000000000_00000000_00100001 = .ok .gfmul ∧
      decode 0b0000000000000000_00000000_00100010 = .ok .gfinv ∧
      decode 0b0000000000000000_00000000_00100011 = .ok .tblGen := by decide +kernel

theorem test_decode_aes_words :
    decode 0b0000000000000000_00000010_00110000 = .ok (.aesExpand 2) ∧
      decode 0b0000000000000000_00000000_00110001 = .ok .aesEnc ∧
      decode 0b0000000000000000_00000000_00110010 = .ok .aesDec ∧
      decode 0b0000000000000000_00000000_00110011 = .ok .aesSubBytes ∧
      decode 0b0000000000000000_00000000_00110100 = .ok .aesInvSubBytes ∧
      decode 0b0000000000000000_00000000_00110101 = .ok .aesShiftRows ∧
      decode 0b0000000000000000_00000000_00110110 = .ok .aesInvShiftRows ∧
      decode 0b0000000000000000_00000000_00110111 = .ok .aesMixColumns ∧
      decode 0b0000000000000000_00000000_00111000 = .ok .aesInvMixColumns ∧
      decode 0b0000000000000000_00001010_00111001 = .ok (.aesAddRoundKey 10) := by decide +kernel

theorem test_decode_sha_words :
    decode 0b0000000000000000_00000000_01000000 = .ok .shaInit ∧
      decode 0b0000000000000000_00000000_01000001 = .ok .shaCompress ∧
      decode 0b0000000000000000_00000000_01000010 = .ok .shaSchedule := by decide +kernel

/-- No word is selected by two rows of the opcode map. -/
theorem test_opcode_rows_do_not_overlap :
    opcodeRows.Pairwise fun r q => r.pattern &&& (r.mask &&& q.mask) ≠ q.pattern &&& (r.mask &&& q.mask) := by
  decide +kernel

/-! Small states. -/

/-- The machine while the sequencer runs `i`. -/
def running (i : Instr) (s : State) : State := { s with ctl := { s.ctl with seq := .busy i } }

/-- The state an outcome gives; the state after reset where it stops. -/
def after : Host.Outcome State Fault Refusal → State
  | .next t => t
  | _ => State.reset

/-- An array whose first words are those listed. -/
def bankOf (n : Nat) (ws : List Word) : Bank n := Bank.ofFn fun i => ws.getD i.val 0

/-- The state after reset with PKE_LEN = L and the operands' limbs. -/
def pkeState (L : BitVec 16) (a b e n : List Word) : State :=
  { State.reset with
    pke := { len := L, a := bankOf 256 a, b := bankOf 256 b, e := bankOf 256 e, n := bankOf 256 n, r := Bank.zero 256 } }

/-- The state after reset with GF_A and GF_B. -/
def gfState (a b : Byte) : State := { State.reset with gf := { a := a, b := b, res := 0 } }

/-- The state after reset with a block in AES_DATA. -/
def dataState (ws : List Word) : State :=
  { State.reset with aes := { State.reset.aes with data := bankOf 4 ws } }

/-- The state after reset with a key, a block and a valid schedule of a 16-byte key. -/
def keyedState (rk : Bank 60) (ws : List Word) : State :=
  { State.reset with
    aes := { State.reset.aes with rk := rk, data := bankOf 4 ws, keyValid := true, keylen := 0, nr := 10 } }

/-- The key of 95_test_vectors V-AES-1. -/
def keyB : List Word := [0x2b7e1516, 0x28aed2a6, 0xabf71588, 0x09cf4f3c]

/-- The state after reset with a block in SHA_W and a hash value in SHA_H. -/
def shaState (h w : List Word) : State :=
  { State.reset with sha := { State.reset.sha with h := bankOf 8 h, w := bankOf 16 w } }

/-- The initial hash value of 95_test_vectors V-SHA-1. -/
def hashB : List Word :=
  [0x6a09e667, 0xbb67ae85, 0x3c6ef372, 0xa54ff53a, 0x510e527f, 0x9b05688c, 0x1f83d9ab, 0x5be0cd19]

/-- What the running command leaves. -/
def done (i : Instr) (s : State) : State := after (exec i (running i s))

/-! Vectors of 95_test_vectors: V-SEQ and V-PKE. -/

theorem test_nop_sets_done : (done .nop State.reset).statusWord = 0x00000012 := by decide +kernel

theorem test_modexp_textbook : (done .modexp (pkeState 1 [65] [] [17] [3233])).pke.r.get 0 = 2790 := by
  decide +kernel

theorem test_modexp_zero_to_zero : (done .modexp (pkeState 1 [0] [] [0] [5])).pke.r.get 0 = 1 := by decide +kernel

theorem test_rsaCrypt_decrypts : (done .rsaCrypt (pkeState 1 [2790] [] [413] [3233])).pke.r.get 0 = 65 := by
  decide +kernel

theorem test_rsaCrypt_message_too_large :
    (after (exec .rsaCrypt (pkeState 1 [3233] [] [17] [3233]))).errcodeWord = 0x00001112 := by decide +kernel

theorem test_modmul_two_limbs :
    (done .modmul
      (pkeState 2 [0x9ABCDEF0, 0x12345678] [0x87654321, 0x0FEDCBA9] [] [0xFFFFFFFF, 0x1FFFFFFF])).pke.r.words.take 3 =
      [0x51204701, 0x0B46A895, 0] := by decide +kernel

theorem test_modmul_zero_modulus :
    (after (exec .modmul (pkeState 1 [] [] [] []))).errcodeWord = 0x00001211 := by decide +kernel

theorem test_montmul_two_limbs :
    (done .montmul
      (pkeState 2 [0x9ABCDEF0, 0x12345678] [0x87654321, 0x0FEDCBA9] [] [0xFFFFFFFF, 0x1FFFFFFF])).pke.r.words.take 3 =
      [0xAA2408E0, 0x0568D512, 0] := by decide +kernel

theorem test_montmul_operand_range :
    (after (exec .montmul (pkeState 1 [3233] [] [] [3233]))).errcodeWord = 0x00001314 := by decide +kernel

/-! V-GF. -/

theorem test_gfadd : (done .gfadd (gfState 0x57 0x83)).gf.res = 0xD4 := by decide +kernel

theorem test_gfmul : (done .gfmul (gfState 0x57 0x83)).gf.res = 0xC1 := by decide +kernel

theorem test_gfmul_reduces : (done .gfmul (gfState 0x80 0x02)).gf.res = 0x1B := by decide +kernel

theorem test_gfinv : (done .gfinv (gfState 0x53 0x00)).gf.res = 0xCA := by decide +kernel

theorem test_gfinv_zero : (done .gfinv (gfState 0x00 0x57)).gf.res = 0x00 := by decide +kernel

theorem test_tblGen_entries :
    (done .tblGen State.reset).tables.sbox.get 0x53 = 0x000000ED ∧
      (done .tblGen State.reset).tables.rcon.get 10 = 0x36000000 ∧
      (done .tblGen State.reset).statusWord = 0x00000012 := by decide +kernel

theorem test_reset_tables :
    State.reset.tables.invSbox.get 0x16 = 0x000000FF ∧ State.reset.tables.sbox.get 0xFF = 0x00000016 := by
  decide +kernel

/-! V-AES-1, V-AES-2, V-AES-3. -/

/-- The key of V-AES-2 for a key-length code of 1. -/
def key24 : List Word := [0x00010203, 0x04050607, 0x08090a0b, 0x0c0d0e0f, 0x10111213, 0x14151617]

theorem test_aesExpand_192 :
    let t := done (.aesExpand 1) { State.reset with aes := { State.reset.aes with key := bankOf 8 key24 } }
    t.aes.rk.get 51 = 0xe3a41d5d ∧ t.aes.rk.get 52 = 0 ∧ t.statusWord = 0x00000C72 := by decide +kernel

theorem test_aesExpand_bad_keylen : (after (exec (.aesExpand 3) State.reset)).errcodeWord = 0x00003030 := by
  decide +kernel

theorem test_aesEnc_appendix_b :
    (done .aesEnc
      (keyedState (scheduleBank 0 (bankOf 8 keyB)) [0x3243f6a8, 0x885a308d, 0x313198a2, 0xe0370734])).aes.data.words =
      [0x3925841d, 0x02dc09fb, 0xdc118597, 0x196a0b32] := by decide +kernel

theorem test_aesEnc_no_key : (after (exec .aesEnc State.reset)).errcodeWord = 0x00003131 := by decide +kernel

theorem test_aesDec_appendix_b :
    (done .aesDec
      (keyedState (scheduleBank 0 (bankOf 8 keyB)) [0x3925841d, 0x02dc09fb, 0xdc118597, 0x196a0b32])).aes.data.words =
      [0x3243f6a8, 0x885a308d, 0x313198a2, 0xe0370734] := by decide +kernel

theorem test_aesDec_no_key : (after (exec .aesDec State.reset)).errcodeWord = 0x00003231 := by decide +kernel

theorem test_aesSubBytes :
    (done .aesSubBytes (dataState [0x193de3be, 0xa0f4e22b, 0x9ac68d2a, 0xe9f84808])).aes.data.words =
      [0xd42711ae, 0xe0bf98f1, 0xb8b45de5, 0x1e415230] := by decide +kernel

theorem test_aesInvSubBytes :
    (done .aesInvSubBytes (dataState [0xd42711ae, 0xe0bf98f1, 0xb8b45de5, 0x1e415230])).aes.data.words =
      [0x193de3be, 0xa0f4e22b, 0x9ac68d2a, 0xe9f84808] := by decide +kernel

theorem test_aesShiftRows :
    (done .aesShiftRows (dataState [0x00010203, 0x04050607, 0x08090a0b, 0x0c0d0e0f])).aes.data.words =
      [0x00050a0f, 0x04090e03, 0x080d0207, 0x0c01060b] := by decide +kernel

theorem test_aesInvShiftRows :
    (done .aesInvShiftRows (dataState [0x00010203, 0x04050607, 0x08090a0b, 0x0c0d0e0f])).aes.data.words =
      [0x000d0a07, 0x04010e0b, 0x0805020f, 0x0c090603] := by decide +kernel

theorem test_aesMixColumns :
    (done .aesMixColumns (dataState [0xd4bf5d30, 0xe0b452ae, 0xb84111f1, 0x1e2798e5])).aes.data.words =
      [0x046681e5, 0xe0cb199a, 0x48f8d37a, 0x2806264c] := by decide +kernel

theorem test_aesInvMixColumns :
    (done .aesInvMixColumns (dataState [0xa49c7ff2, 0x689f352b, 0x6b5bea43, 0x026a5049])).aes.data.words =
      [0xff885597, 0x12d686ab, 0x047fac4e, 0x5546e587] := by decide +kernel

theorem test_aesAddRoundKey :
    (done (.aesAddRoundKey 1)
      (keyedState (bankOf 60 ([0, 0, 0, 0] ++ [0xa0fafe17, 0x88542cb1, 0x23a33939, 0x2a6c7605]))
        [0x046681e5, 0xe0cb199a, 0x48f8d37a, 0x2806264c])).aes.data.words =
      [0xa49c7ff2, 0x689f352b, 0x6b5bea43, 0x026a5049] := by decide +kernel

theorem test_aesAddRoundKey_bad_round :
    (after (exec (.aesAddRoundKey 11) (keyedState (Bank.zero 60) []))).errcodeWord = 0x00003932 := by decide +kernel

/-! V-SHA. -/

theorem test_shaInit : (done .shaInit State.reset).sha.h.words = hashB := by decide +kernel

theorem test_shaCompress_empty_message :
    (done .shaCompress (shaState hashB [0x80000000])).sha.h.words =
      [0xe3b0c442, 0x98fc1c14, 0x9afbf4c8, 0x996fb924, 0x27ae41e4, 0x649b934c, 0xa495991b, 0x7852b855] := by
  decide +kernel

theorem test_shaSchedule_empty_message :
    (done .shaSchedule (shaState [] [0x80000000])).sha.sched.get 18 = 0x00205000 ∧
      (done .shaSchedule (shaState [] [0x80000000])).sha.sched.get 63 = 0x3b5ec49b := by decide +kernel

/-! V-SEQ: a step of the machine. -/

theorem test_step_submits_placed_word :
    (after (step (State.reset.withFetchWord 32 0x0000FF30))).errcodeWord = 0x00003030 := by decide +kernel

theorem test_step_rejects_reserved_field :
    (after (step (State.reset.withFetchWord 32 0x00010010))).errcodeWord = 0x00001002 := by decide +kernel

theorem test_busy_write_sets_wib :
    (after (busWrite 0x1000 4 7 (running .modexp (pkeState 1 [65] [] [17] [3233])))).statusWord = 0x00000019 := by
  decide +kernel

theorem test_busy_command_is_rejected :
    (after (busWrite 0x0010 4 0x00010033 (running .modexp State.reset))).errcodeWord = 0x00003304 := by decide +kernel

theorem test_pke_len_keeps_16_bits :
    (after (busWrite 0x0018 4 0xFFFF1234 State.reset)).readReg .pkeLen = 0x00001234 := by decide +kernel

theorem test_soft_reset_starts_table_generation :
    (after (busWrite 0x0008 4 3 State.reset)).statusWord = 0x00000001 ∧
      (after (busWrite 0x0008 4 3 State.reset)).readReg .ctrl = 0 := by decide +kernel

theorem test_interrupt_line_follows_done :
    (after (exec .nop (running .nop (after (busWrite 0x0008 4 1 State.reset))))).statusWord = 0x00001012 := by
  decide +kernel

/-! 30_encoding R122, R123 and V-HOST: the assembler and the host library. -/

theorem test_assemble_wait_and_labels :
    assemble 0 [.command .modexp, .wait 0, .jbit 0 2 (.fwd 2), .jmp .fail, .label (.numeric 2), .expect .errcode 0x1010 0, .halt] =
      some
        [.memWrite 0x10 4 0x10, .memRead 0xC 4 (some 0), .jbit 0 0 (.index 1), .jbit 0 2 (.index 5), .jmp .fail,
          .memRead 0x14 4 (some 0), .check 0 0x1010, .halt] := by decide

/-- 30_encoding R122, R123: `1b` after a `wait` and `1f` before a `run` go to the label of the expansion's STATUS
read, a label line nearer by takes its place, and a name is no numeric label. -/
theorem test_assemble_labels_of_expansions :
    assemble 0 [.label (.name 1), .wait 0, .jmp (.back 1), .jmp (.fwd 1), .run .nop 0, .jmp (.name 1)] =
      some
        [.memRead 0xC 4 (some 0), .jbit 0 0 (.index 0), .jmp (.index 0), .jmp (.index 5), .memWrite 0x10 4 0,
          .memRead 0xC 4 (some 0), .jbit 0 0 (.index 5), .memRead 0xC 4 (some 0), .jbit 0 2 .fail, .jmp (.index 0)] ∧
    assemble 0 [.wait 0, .label (.numeric 1), .jmp (.back 1)] =
      some [.memRead 0xC 4 (some 0), .jbit 0 0 (.index 0), .jmp (.index 2)] := by decide

/-- The context of a routine on the engine after reset, with raw draws to come. -/
def ctx (draws : List Nat) : HostCtx :=
  { engine := State.reset, draws := draws, polls := [2, 1], schedule := none, maxAttempts := none, attempts := 0 }

/-- What a routine returns there. -/
def result {α : Type} (m : HostM α) (draws : List Nat) : Option α := (m.run (ctx draws)).1.toOption

/-- What a routine fails with in a context. -/
def failureIn {α : Type} (c : HostCtx) (m : HostM α) : Option HostError :=
  match (m.run c).1 with
  | .ok _ => none
  | .error e => some e

/-- What a routine fails with on the engine after reset. -/
def failure {α : Type} (m : HostM α) : Option HostError := failureIn (ctx []) m

theorem test_modpow : result (modpow 65 17 3233) [] = some 2790 := by decide +kernel

/-- 48_host_library R284 and its example; with n = 0 every message is too large. -/
theorem test_encrypt_message_too_large :
    failure (encrypt 3233 3233 17) = some .messageTooLarge ∧ failure (encrypt 5 0 17) = some .messageTooLarge := by
  decide +kernel

/-- 48_host_library R280, 90_conflicts C8: the two errors named MessageTooLargeError have different kinds. -/
theorem test_error_kinds :
    HostError.kind .messageTooLarge = some .domainError ∧ HostError.kind .hashTooLarge = some .overflowError ∧
      HostError.kind .exhaustion = some .exhaustionError ∧ HostError.kind (.ofCode modpowErrors 0x04) = none := by decide

/-- A routine's context where another command has left ERR = 1 with `code`. -/
def staleCtx (code : ErrCode) (schedule : Option (List Byte)) : HostCtx :=
  { ctx [] with engine := State.reset.reject 0 code, schedule := schedule }

/-- 48_host_library R280, last row: a code left by another routine's command is EngineError. -/
theorem test_unexpected_code_is_engineError :
    failureIn (staleCtx .pkeMsgTooLarge none) (hash []) = some (.engine 0x12) ∧
      failureIn (staleCtx .aesBadKeylen none) (modpow 2 3 5) = some (.engine 0x30) ∧
      failureIn (staleCtx .pkeZeroModulus none) (encrypt 2 5 3) = some (.engine 0x11) := by decide +kernel

/-- 48_host_library R290: an expandKey that fails on a code left before it was still the last one issued; one that a
busy engine rejects leaves no schedule. -/
theorem test_schedule_after_failed_expandKey :
    let key (b : Byte) := List.replicate 16 b
    ((expandKey (key 2)).run (staleCtx .pkeBadLen (some (key 1)))).2.schedule = some (key 2) ∧
      ((expandKey (key 2)).run
        { ctx [] with engine := running .nop State.reset, schedule := some (key 1) }).2.schedule = none := by
  decide +kernel

theorem test_strong_liar : result (isProbablyPrime 2047 1) [0] = some true := by decide +kernel

theorem test_strong_witness : result (isProbablyPrime 2047 1) [1] = some false := by decide +kernel

theorem test_generateKeyPair_redraws :
    result (generateKeyPair 12 17 1) [14, 0, 14, 0, 10, 0] = some { n := 3233, e := 17, d := 413, bitLength := 12 } := by
  decide +kernel

theorem test_extendedEuclid :
    extendedEuclid 17 780 = (1, -367, 8) ∧ extendedEuclid 240 46 = (2, -9, 47) ∧ extendedEuclid 0 0 = (0, 1, 0) := by
  decide

theorem test_modInverse : (modInverse 17 780).toOption = some 413 ∧ (modInverse 2 4).toOption = none := by decide

theorem test_pad_abc : (pad [0x61, 0x62, 0x63]).toOption.map packWords =
    some (some ([0x61626380] ++ List.replicate 14 0 ++ [0x00000018])) := by decide +kernel

/-! A witness for the hypotheses of each obligation, clause by clause where an obligation has several. -/

theorem witness_EncodedCommandDecodesBack : (Instr.aesExpand 255).WellFormed ∧ Instr.nop.WellFormed := by decide

theorem witness_DecodedWordIsItsEncoding : decode 0x0000FF39 = .ok (.aesAddRoundKey 255) := by decide +kernel

/-- The words 0x43, 0x80000042, 0x0131 and 0xFF30, one for each outcome of the decoder. -/
theorem witness_DecoderOutcomes :
    let opc (c : Word) : Byte := c.extractLsb' 0 8
    let imm (c : Word) : Byte := c.extractLsb' 8 8
    let rsv (c : Word) : BitVec 16 := c.extractLsb' 16 16
    let opcodes := opcodeRows.map fun r => opc r.pattern
    (opc 0x00000043 ∉ opcodes) ∧ (opc 0x80000042 ∈ opcodes ∧ rsv 0x80000042 ≠ 0) ∧
      (opc 0x00000131 ∈ opcodes ∧ rsv 0x00000131 = 0 ∧ opc 0x00000131 ≠ 0x30 ∧ opc 0x00000131 ≠ 0x39 ∧
        imm 0x00000131 ≠ 0) ∧
      (opc 0x0000FF30 ∈ opcodes ∧ rsv 0x0000FF30 = 0 ∧ opc 0x0000FF30 = 0x30) := by decide +kernel

theorem witness_OpcodeMapSelectsCommands :
    (⟨"AES_ADDROUNDKEY", 0x39, 0xFFFF00FF⟩ : OpcodeRow) ∈ opcodeRows := by decide +kernel

theorem witness_HostCommandWriteRunsItsMeaning :
    let s := State.reset.withFetchWord 32 0x0000FF30
    s.turns = .host :: [] ∧ s.host.run = .running ∧ s.ctl.seq = .idle ∧
      s.host.program[s.host.pc]? = some (.memWrite (s.params.base + 0x10) 4 0x0000FF30) ∧
      decode 0x0000FF30 = .ok (.aesExpand 255) := by
  refine ⟨rfl, rfl, rfl, rfl, ?_⟩
  decide +kernel

/-- The state after reset with an order of moves. -/
def withTurns (ts : List Turn) (s : State) : State := { s with turns := ts }

theorem witness_SequencerTurnRunsTheRunningCommand :
    ((withTurns [.sequencer] (running .gfinv State.reset)).turns = .sequencer :: [] ∧
      (withTurns [.sequencer] (running .gfinv State.reset)).ctl.seq = .busy .gfinv) ∧
    ((running .gfinv State.reset).turns = [] ∧ (running .gfinv State.reset).ctl.seq = .busy .gfinv) ∧
    ((withTurns [.sequencer] State.reset).turns = .sequencer :: [] ∧
      (withTurns [.sequencer] State.reset).ctl.seq = .idle) := ⟨⟨rfl, rfl⟩, ⟨rfl, rfl⟩, ⟨rfl, rfl⟩⟩

theorem witness_RefusedWordsChangeOnlyTheErrorState :
    (running .shaInit State.reset).ctl.seq ≠ .idle ∧ State.reset.ctl.seq = .idle ∧
      decode 0x0001FF43 = .error .illegalOpc ∧ decode 0x00010000 = .error .reservedField := by
  refine ⟨by simp [running], rfl, ?_, ?_⟩ <;> decide +kernel

/-- Limb counts 0 and 129 fail, 128 and 1 do not; a modulus of 0, one equal to an operand, an even and an odd one. -/
theorem witness_SubmissionChecksInOrder_pke :
    ((pkeState 0 [] [] [] []).pke.len.toNat = 0 ∧ (pkeState 129 [] [] [] []).params.maxLimbs < 129) ∧
    ((pkeState 128 [] [] [] []).params.maxLimbs = 128 ∧ (pkeState 128 [] [] [] []).opN = 0) ∧
    ((pkeState 1 [3233] [] [] [3233]).opN ≠ 0 ∧
      (pkeState 1 [3233] [] [] [3233]).opN ≤ (pkeState 1 [3233] [] [] [3233]).opA) ∧
    (pkeState 1 [3232] [] [] [3233]).opA < (pkeState 1 [3232] [] [] [3233]).opN ∧
    (pkeState 1 [] [] [] [12]).opN % 2 = 0 ∧
    ((pkeState 1 [] [11] [] [11]).opN % 2 = 1 ∧
      (pkeState 1 [] [11] [] [11]).opN ≤ (pkeState 1 [] [11] [] [11]).opB) ∧
    ((pkeState 1 [10] [10] [] [11]).opN % 2 = 1 ∧
      (pkeState 1 [10] [10] [] [11]).opA < (pkeState 1 [10] [10] [] [11]).opN ∧
      (pkeState 1 [10] [10] [] [11]).opB < (pkeState 1 [10] [10] [] [11]).opN) := by decide +kernel

theorem witness_SubmissionChecksInOrder_aes :
    2 < 3 ∧ 2 ≤ 2 ∧ State.reset.ctl.seq = .idle ∧ State.reset.aes.keyValid = false ∧
      (keyedState (Bank.zero 60) []).ctl.seq = .idle ∧ (keyedState (Bank.zero 60) []).aes.keyValid = true ∧
      (keyedState (Bank.zero 60) []).aes.nr.toNat < 11 ∧ 10 ≤ (keyedState (Bank.zero 60) []).aes.nr.toNat := by
  decide +kernel

theorem witness_AcceptanceChangesOnlySeq : State.reset.IrqInv := by decide

theorem witness_NopCompletes : (running .nop State.reset).ctl.seq = .busy .nop := rfl

theorem witness_ExponentiationsComplete :
    (running .modexp State.reset).ctl.seq = .busy .modexp ∧
      (running .rsaCrypt State.reset).ctl.seq = .busy .rsaCrypt := ⟨rfl, rfl⟩

theorem witness_ModmulCompletes : (running .modmul State.reset).ctl.seq = .busy .modmul := rfl

theorem witness_MontmulCompletes :
    (running .montmul (pkeState 1 [] [] [] [1])).ctl.seq = .busy .montmul ∧
      (running .montmul (pkeState 1 [] [] [] [1])).opN % 2 = 1 := by decide +kernel

/-- The limb count at both ends of its range; limbs below it and, for the count 1, from it on. -/
theorem witness_PkeResultLimbs :
    let small := running .modmul (pkeState 1 [5] [7] [] [11])
    let large := running .modmul (pkeState 256 [5] [7] [] [11])
    Instr.modmul ∈ [Instr.modexp, .rsaCrypt, .modmul, .montmul] ∧ small.ctl.seq = .busy .modmul ∧
      (1 ≤ small.limbs ∧ small.limbs ≤ 256 ∧ 0 < small.opN) ∧ large.limbs = 256 ∧ 0 < large.opN ∧
      (0 < small.limbs ∧ small.limbs ≤ 1) := by decide +kernel

theorem witness_GfCommandsComplete :
    (running .gfadd State.reset).ctl.seq = .busy .gfadd ∧ (running .gfmul State.reset).ctl.seq = .busy .gfmul ∧
      (running .gfinv (gfState 0 0)).ctl.seq = .busy .gfinv ∧ (running .gfinv (gfState 0 0)).gf.a = 0 ∧
      (running .gfinv (gfState 0xFF 0)).gf.a ≠ 0 ∧ gfmul 0xFF 0x1C = 1 := by decide +kernel

theorem witness_TblGenCompletes : (running .tblGen State.reset).ctl.seq = .busy .tblGen := rfl

theorem witness_AesExpandCompletes :
    (running (.aesExpand 0) State.reset).ctl.seq = .busy (.aesExpand 0) ∧
      (running (.aesExpand 1) State.reset).ctl.seq = .busy (.aesExpand 1) ∧
      (running (.aesExpand 2) State.reset).ctl.seq = .busy (.aesExpand 2) := ⟨rfl, rfl, rfl⟩

theorem witness_CipherCommandsComplete :
    (running .aesEnc State.reset).ctl.seq = .busy .aesEnc ∧
      (running .aesDec State.reset).ctl.seq = .busy .aesDec := ⟨rfl, rfl⟩

theorem witness_ByteTransformsComplete :
    ∀ i ∈ [Instr.aesSubBytes, .aesInvSubBytes, .aesShiftRows, .aesInvShiftRows],
      (running i State.reset).ctl.seq = .busy i := fun _ _ => rfl

theorem witness_MixTransformsComplete :
    ∀ i ∈ [Instr.aesMixColumns, .aesInvMixColumns], (running i State.reset).ctl.seq = .busy i := fun _ _ => rfl

theorem witness_AddRoundKeyCompletes :
    14 ≤ 14 ∧ (running (.aesAddRoundKey 14) State.reset).ctl.seq = .busy (.aesAddRoundKey 14) := ⟨Nat.le_refl _, rfl⟩

theorem witness_ShaInitCompletes : (running .shaInit State.reset).ctl.seq = .busy .shaInit := rfl

theorem witness_ShaScheduleCompletes : (running .shaSchedule State.reset).ctl.seq = .busy .shaSchedule := rfl

theorem witness_ShaCompressCompletes : (running .shaCompress State.reset).ctl.seq = .busy .shaCompress := rfl

theorem witness_TableGenerationAfterResetCompletes : State.reset.engineReset.ctl.seq = .tblgenReset := rfl

/-- A completion and a submission; a register outside GFADD's write set. -/
theorem witness_CommandsWriteOnlyTheirWriteSet :
    (∃ t, exec .gfadd (running .gfadd State.reset) = .next t) ∧
      (running .gfadd State.reset).ctl.seq = .busy .gfadd ∧ (∃ t, exec .gfadd State.reset = .next t) ∧
      State.reset.ctl.seq ≠ .busy .gfadd ∧ ResultReg.aesData ∉ writeSet .gfadd := by
  refine ⟨⟨_, rfl⟩, rfl, ⟨_, rfl⟩, by simp [State.reset], by decide⟩

theorem witness_RegisterMapIsExact :
    locAt 128 0x11FC = some (.pkeA 127) ∧ locAt 128 0x1200 = none ∧ 0x11FC % 4 = 0 ∧ 0x11FC < 0x4000 := by decide

/-- A reserved offset; a register outside and one inside the write set of what runs; STATUS. -/
theorem witness_HostReadValues :
    (locAt State.reset.params.maxLimbs 0x3FFC = none ∧ 0x3FFC % 4 = 0 ∧ 0x3FFC < 0x4000) ∧
      (locAt State.reset.params.maxLimbs 0x0024 = some .gfRes ∧
        inWriteSet (running .modexp State.reset).ctl.seq .gfRes = false) ∧
      inWriteSet (running .gfadd State.reset).ctl.seq .gfRes = true ∧
      locAt State.reset.params.maxLimbs 0x000C = some .status ∧
      (statusWriteSet (running (.aesExpand 0) State.reset).ctl.seq).getLsbD 11 = true ∧
      (statusWriteSet (running (.aesExpand 0) State.reset).ctl.seq).getLsbD 12 = false := by decide

theorem witness_DataWriteReadsBack :
    (Loc.pkeN 127).dataReg = true ∧ (Loc.pkeN 127).present State.reset.params.maxLimbs = true ∧
      Loc.pkeLen.dataReg = true ∧ Loc.pkeLen.present State.reset.params.maxLimbs = true ∧
      State.reset.ctl.seq = .idle := by decide

theorem witness_BusyPeriodWrites :
    (running .nop State.reset).IrqInv ∧ (running .nop State.reset).ctl.seq ≠ .idle ∧
      ((Loc.shaH 7).dataReg = true ∧ (Loc.shaH 7).present 128 = true) ∧
      ((Loc.pkeR 127).readOnly = true ∧ (Loc.pkeR 127).present 128 = true) ∧
      (locAt 128 0x2200 = none ∧ 0x2200 % 4 = 0 ∧ 0x2200 < 0x4000) := by decide

theorem witness_CtrlWriteStoresOrResets :
    (0x00000001 : Word).getLsbD 1 = false ∧ (0x00000003 : Word).getLsbD 1 = true := by decide

/-- The state after reset of an instance at the address 0x4000. -/
def atBase : State := { State.reset with params := { State.reset.params with base := 0x4000 } }

/-- A narrow access and a misaligned one at the last byte of the window; the addresses on both sides of it. -/
theorem witness_OtherAccessesStop :
    (atBase.params.base ≤ 0x4000 ∧ 0x4000 < atBase.params.base + 0x4000) ∧
      (0x7FFF < atBase.params.base + 0x4000 ∧ (0x7FFF - atBase.params.base) % 4 ≠ 0) ∧
      0x3FFF < atBase.params.base ∧ atBase.params.base + 0x4000 ≤ 0x8000 := by decide

/-- The state that runs NOP after reset meets the invariant, and its step answers. -/
theorem witness_StepKeepsInvariant :
    (running .nop State.reset).Inv ∧ ∃ t, step (running .nop State.reset) = .next t := by
  refine ⟨⟨by decide, by decide, by decide, by decide, rfl, ?_, ⟨rfl, rfl⟩, rfl⟩, ⟨_, rfl⟩⟩
  refine ⟨?_, ?_, ?_, ?_, ?_⟩ <;> exact fun i _ => Bank.get_zero i

theorem witness_StepKeepsParameters : ∃ t, step (running .nop State.reset) = .next t := ⟨_, rfl⟩

theorem witness_AcceptedProgramsNeverStop : (State.reset.withFetchWord 32 0x0000FF30).safeProgram = true := by decide

theorem witness_SequencerBecomesIdle :
    ∀ k : Nat, k ≤ (withTurns [.host] (running .nop State.reset)).turns.length →
      ∃ t : State, runSteps k (withTurns [.host] (running .nop State.reset)) = .next t := by
  intro k hk
  have h : k = 0 ∨ k = 1 := by
    have : k ≤ 1 := hk
    omega
  rcases h with rfl | rfl
  · exact ⟨_, rfl⟩
  · exact ⟨_, rfl⟩

theorem witness_FieldLaws : (0xFF : Byte) ≠ 0 := by decide

theorem witness_ReferenceAlgorithmIsPower : 1 ≤ 1 := Nat.le_refl _

theorem witness_MontgomeryIdentities : 1 % 2 = 1 ∧ 0 < 1 ∧ 11 % 2 = 1 ∧ 10 < 11 := by decide

/-- 95_test_vectors V-RSA-1. -/
theorem witness_RsaRoundTrip :
    let s := pkeState 1 [65] [] [17] [3233]
    let t := after (perform .rsaCrypt s)
    let u := pkeState 1 [2790] [] [413] [3233]
    (Nat.Prime 61 ∧ Nat.Prime 53 ∧ 61 ≠ 53 ∧
      17 * 413 % Nat.lcm (61 - 1) (53 - 1) = 1 % Nat.lcm (61 - 1) (53 - 1)) ∧
      (s.params.Legal ∧ s.ctl.seq = .idle ∧ 1 ≤ s.limbs ∧ s.limbs ≤ s.params.maxLimbs ∧ s.opN = 61 * 53 ∧
        s.opE = 17 ∧ s.opA = 65 ∧ 65 < 61 * 53) ∧
      (u.params.Legal ∧ u.ctl.seq = .idle ∧ u.limbs = s.limbs ∧ u.limbs ≤ u.params.maxLimbs ∧ u.opN = 61 * 53 ∧
        u.opE = 413 ∧ u.opA = valL s.limbs t.pke.r) := by
  refine ⟨⟨by norm_num, by norm_num, by decide, by decide⟩, ?_, ?_⟩ <;> decide +kernel

theorem witness_AesRoundTrip :
    (keyedState (Bank.zero 60) []).ctl.seq = .idle ∧ (keyedState (Bank.zero 60) []).aes.keyValid = true := ⟨rfl, rfl⟩

theorem witness_PipelineEqualsCipher :
    (keyedState (Bank.zero 60) []).ctl.seq = .idle ∧ (keyedState (Bank.zero 60) []).aes.keyValid = true ∧
      (keyedState (Bank.zero 60) []).KeyInv := ⟨rfl, rfl, by decide⟩

/-- A program with one statement of each kind, at each of its statements. -/
theorem witness_HostProgramCounter :
    let program : List Stmt :=
      [.memWrite 0x10 4 0, .memRead 0x0C 4 (some 0), .memRead 0x0C 4 none, .jbit 0 4 (.index 4), .jmp (.index 5),
        .sumLimbs 1 [0], .check 1 0, .halt]
    let at_ (k : Nat) : State :=
      { State.reset with host := { program := program, pc := k, vars := [], run := .running } }
    (∀ k : Nat, (at_ k).host.run = .running) ∧
      (∀ k : Fin 8, (at_ k.val).host.program[k.val]? = some (program.getD k.val .halt)) ∧
      (∃ t, hostStep (at_ 0) = .next t) ∧ ∃ t, hostStep (at_ 1) = .next t := by
  refine ⟨fun _ => rfl, by decide, ⟨_, rfl⟩, ⟨_, rfl⟩⟩

theorem witness_HostReadBindsItsVariable :
    let s : State :=
      { State.reset with
        host := { program := [.memRead 0x00 4 (some 3)], pc := 0, vars := [(2, 5)], run := .running } }
    varsWf s.host.vars = true ∧ s.host.run = .running ∧
      s.host.program[s.host.pc]? = some (.memRead (s.params.base + 0x00) 4 (some 3)) ∧
      busRead (s.params.base + 0x00) 4 s = .next (0x50594352, s) := ⟨rfl, rfl, rfl, rfl⟩

theorem witness_ModInverseIsInverse :
    Nat.gcd 2 4 ≠ 1 ∧ (0 : Nat) = 0 ∧ (1 ≠ 0 ∧ Nat.gcd 5 1 = 1) ∧ (780 ≠ 0 ∧ Nat.gcd 17 780 = 1) := by decide

theorem witness_PaddingFillsBlocks :
    2 ^ 64 ≤ 8 * (List.replicate (2 ^ 61) (0 : Byte)).length ∧
      8 * (List.replicate (2 ^ 61 - 1) (0 : Byte)).length < 2 ^ 64 := by
  simp only [List.length_replicate]
  decide

end Sys2Proof.Tests
end

section
/-! PROOFS. What each agent's move leaves unchanged: the engine's moves keep the host, and every move keeps the parameters and the host's program. The step by whose turn it is. -/

namespace Sys2Proof.Machine

/-! The engine's moves: parameters, host agent and list of turns stay (00_scope R8, 10_state R30). -/

/-- From `s` to `t` the engine's registers and sequencer may change, and what is not the engine's stays. -/
structure EngineMove (s t : State) : Prop where
  params : t.params = s.params
  host : t.host = s.host
  turns : t.turns = s.turns

theorem EngineMove.refreshIrq {s t : State} (h : EngineMove s t) : EngineMove s t.refreshIrq :=
  ⟨h.params, h.host, h.turns⟩

theorem exec_engineMove {i : Instr} {s t : State} (h : exec i s = .next t) : EngineMove s t := by
  obtain ⟨-, rfl⟩ | ⟨-, -, rfl⟩ | ⟨-, code, -, rfl⟩ | ⟨-, -, rfl⟩ := exec_cases h
  · obtain ⟨hparams, -, hhost, hturns, -⟩ := commandEffect_frame i s
    exact ⟨hparams, hhost, hturns⟩
  · exact ⟨rfl, rfl, rfl⟩
  · exact ⟨rfl, rfl, rfl⟩
  · exact ⟨rfl, rfl, rfl⟩

theorem submitWord_engineMove {c : Word} {s t : State} (h : submitWord c s = .next t) : EngineMove s t := by
  obtain ⟨-, e⟩ | ⟨-, err, -, e⟩ | ⟨-, i, -, e⟩ := submitWord_cases c s
  · cases e.symm.trans h
    exact ⟨rfl, rfl, rfl⟩
  · cases e.symm.trans h
    exact ⟨rfl, rfl, rfl⟩
  · exact exec_engineMove (e.symm.trans h)

theorem State.writeCtrl_engineMove (v : Word) (s : State) : EngineMove s (s.writeCtrl v) := by
  obtain ⟨-, e⟩ | ⟨-, e⟩ := s.writeCtrl_cases v
  · rw [e]
    exact ⟨rfl, rfl, rfl⟩
  · rw [e]
    exact ⟨rfl, rfl, rfl⟩

theorem State.storeReg_engineMove (l : Loc) (v : Word) (s : State) : EngineMove s (s.storeReg l v) := by
  obtain ⟨hparams, -, -, hhost, hturns, -⟩ := storeReg_frame l v s
  exact ⟨hparams, hhost, hturns⟩

theorem windowWrite_engineMove {off : Nat} {v : Word} {s t : State} (h : windowWrite off v s = .next t) :
    EngineMove s t := by
  obtain e | e | e | e | e | ⟨l, -, -, e⟩ := windowWrite_cases off v s
  · cases e.symm.trans h
    exact ⟨rfl, rfl, rfl⟩
  · cases e.symm.trans h
    exact (s.writeCtrl_engineMove v).refreshIrq
  · cases e.symm.trans h
    exact ⟨rfl, rfl, rfl⟩
  · obtain ⟨hparams, hhost, hturns⟩ := submitWord_engineMove (e.symm.trans h)
    exact ⟨hparams, hhost, hturns⟩
  · cases e.symm.trans h
    exact ⟨rfl, rfl, rfl⟩
  · cases e.symm.trans h
    exact (s.storeReg_engineMove l v).refreshIrq

theorem busWrite_engineMove {addr width : Nat} {v : Word} {s t : State} (h : busWrite addr width v s = .next t) :
    EngineMove s t := by
  obtain ⟨-, e⟩ | ⟨-, -, e⟩ | ⟨-, -, e⟩ := busWrite_cases addr width v s
  · cases e.symm.trans h
  · cases e.symm.trans h
  · exact windowWrite_engineMove (e.symm.trans h)

theorem windowRead_engineMove (off : Nat) (s : State) : EngineMove s (windowRead off s).2 := by
  obtain e | e := windowRead_state off s
  · rw [e]
    exact ⟨rfl, rfl, rfl⟩
  · rw [e]
    exact ⟨rfl, rfl, rfl⟩

theorem busRead_engineMove {addr width : Nat} {v : Word} {s t : State} (h : busRead addr width s = .next (v, t)) :
    EngineMove s t := by
  obtain ⟨-, e⟩ | ⟨-, -, e⟩ | ⟨-, -, e⟩ := busRead_cases addr width s
  · cases e.symm.trans h
  · cases e.symm.trans h
  · have hread : windowRead (addr - s.params.base) s = (v, t) := by
      injection e.symm.trans h
    simpa only [hread] using windowRead_engineMove (addr - s.params.base) s

@[simp] theorem sequencerStep_idle {s : State} (h : s.ctl.seq = .idle) : sequencerStep s = .next s := by
  simp only [sequencerStep, h]

@[simp] theorem sequencerStep_busy {s : State} {i : Instr} (h : s.ctl.seq = .busy i) :
    sequencerStep s = exec i s := by
  simp only [sequencerStep, h]

@[simp] theorem sequencerStep_tblgenReset {s : State} (h : s.ctl.seq = .tblgenReset) :
    sequencerStep s = .next (completeTblgenReset s) := by
  simp only [sequencerStep, h]

theorem sequencerStep_engineMove {s t : State} (h : sequencerStep s = .next t) : EngineMove s t := by
  cases hq : s.ctl.seq with
  | idle =>
    cases (sequencerStep_idle hq).symm.trans h
    exact ⟨rfl, rfl, rfl⟩
  | busy i => exact exec_engineMove ((sequencerStep_busy hq).symm.trans h)
  | tblgenReset =>
    cases (sequencerStep_tblgenReset hq).symm.trans h
    exact ⟨rfl, rfl, rfl⟩

/-! Every agent's move: the parameters, the text of the host's program and the list of turns stay. -/

/-- From `s` to `t` the host's pc, variables and run may change too, but not its program (30_encoding R125). -/
structure KeepsSetup (s t : State) : Prop where
  params : t.params = s.params
  program : t.host.program = s.host.program
  turns : t.turns = s.turns

theorem KeepsSetup.trans {s t u : State} (h : KeepsSetup s t) (h' : KeepsSetup t u) : KeepsSetup s u :=
  ⟨h'.params.trans h.params, h'.program.trans h.program, h'.turns.trans h.turns⟩

theorem EngineMove.keepsSetup {s t : State} (h : EngineMove s t) : KeepsSetup s t :=
  ⟨h.params, congrArg HostState.program h.host, h.turns⟩

theorem State.advance_keepsSetup (s : State) : KeepsSetup s s.advance := ⟨rfl, rfl, rfl⟩

theorem State.endRun_keepsSetup (r : HostRun) (s : State) : KeepsSetup s (s.endRun r) := ⟨rfl, rfl, rfl⟩

theorem State.bind_keepsSetup (k : Option Nat) (v : Nat) (s : State) : KeepsSetup s (s.bind k v) := by
  cases k <;> exact ⟨rfl, rfl, rfl⟩

theorem State.goto_keepsSetup (target : Target) (s : State) : KeepsSetup s (s.goto target) := by
  cases target <;> exact ⟨rfl, rfl, rfl⟩

theorem runStmt_keepsSetup {st : Stmt} {s t : State} (h : runStmt st s = .next t) : KeepsSetup s t := by
  cases st with
  | memWrite addr width v => exact s.advance_keepsSetup.trans (busWrite_engineMove h).keepsSetup
  | memRead addr width k =>
    cases hread : busRead addr width s.advance with
    | next r =>
      simp only [runStmt, hread] at h
      cases h
      exact (s.advance_keepsSetup.trans (busRead_engineMove hread).keepsSetup).trans (r.2.bind_keepsSetup k _)
    | fault f => simp [runStmt, hread] at h
    | refused r => simp [runStmt, hread] at h
  | jbit k b target =>
    simp only [runStmt] at h
    split at h
    · cases h
      exact s.goto_keepsSetup target
    · cases h
      exact s.advance_keepsSetup
  | jmp target =>
    cases h
    exact s.goto_keepsSetup target
  | sumLimbs k parts =>
    cases h
    exact s.advance_keepsSetup.trans (s.advance.bind_keepsSetup _ _)
  | check k v =>
    simp only [runStmt] at h
    split at h
    · cases h
      exact s.advance_keepsSetup
    · cases h
      exact s.endRun_keepsSetup .failed
  | halt =>
    cases h
    exact s.endRun_keepsSetup .halted

/-- Everything the host's step can do: its next statement, or nothing (30_encoding R125). -/
theorem hostStep_cases (s : State) :
    (∃ st, s.host.run = .running ∧ s.fetch = some st ∧ hostStep s = runStmt st s) ∨ hostStep s = .next s := by
  unfold hostStep
  cases s.host.run with
  | running => cases s.fetch <;> simp
  | halted => simp
  | failed => simp

theorem turnStep_keepsSetup {a : Turn} {s t : State} (h : turnStep a s = .next t) : KeepsSetup s t := by
  cases a with
  | host =>
    obtain ⟨st, -, -, e⟩ | e := hostStep_cases s
    · exact runStmt_keepsSetup (e.symm.trans h)
    · cases e.symm.trans h
      exact ⟨rfl, rfl, rfl⟩
  | sequencer => exact (sequencerStep_engineMove h).keepsSetup
  | powerOnReset =>
    cases h
    exact ⟨rfl, rfl, rfl⟩

/-- Settles O42: whoever moves, the move keeps the setup, and taking the turn off the list touches neither part. -/
theorem stepKeepsParameters : Obligations.StepKeepsParameters := by
  intro s t h
  obtain ⟨-, e⟩ | ⟨a, rest, -, e⟩ := step_eq s
  · have hkeep := turnStep_keepsSetup (e.symm.trans h)
    exact ⟨hkeep.params, hkeep.program⟩
  · have hkeep := turnStep_keepsSetup (e.symm.trans h)
    exact ⟨hkeep.params, hkeep.program⟩

/-! The step by whose turn it is (20_memory R93). -/

theorem step_of_turns_cons {s : State} {a : Turn} {rest : List Turn} (h : s.turns = a :: rest) :
    step s = turnStep a { s with turns := rest } := by
  simp only [step, machineStep, h]

theorem step_of_turns_nil {s : State} (h : s.turns = []) : step s = turnStep s.nextTurn s := by
  simp only [step, machineStep, h]

theorem State.nextTurn_of_busy {s : State} (h : s.ctl.seq ≠ .idle) : s.nextTurn = .sequencer := by
  simp [State.nextTurn, State.isBusy, h]

/-- Settles O7: the step is the sequencer's, on its turn and past the last turn, and is then its completion. -/
theorem sequencerTurnRunsTheRunningCommand : Obligations.SequencerTurnRunsTheRunningCommand := by
  intro s rest i
  refine ⟨fun hturn hbusy => ?_, fun hnil hbusy => ?_, fun hturn hidle => ?_⟩
  · calc step s = sequencerStep { s with turns := rest } := step_of_turns_cons hturn
      _ = exec i { s with turns := rest } := sequencerStep_busy hbusy
  · have hne : s.ctl.seq ≠ .idle := by simp [hbusy]
    calc step s = turnStep s.nextTurn s := step_of_turns_nil hnil
      _ = sequencerStep s := by rw [State.nextTurn_of_busy hne, turnStep]
      _ = exec i s := sequencerStep_busy hbusy
  · calc step s = sequencerStep { s with turns := rest } := step_of_turns_cons hturn
      _ = .next { s with turns := rest } := sequencerStep_idle hidle

end Sys2Proof.Machine
end

section
/-! PROOFS. The field GF(2^8): multiplication is additive and associative, and the inverse and the S-boxes are the listed ones. -/

namespace Sys2Proof

/-- The bytes are spanned by the eight powers of x: what holds of each and survives addition holds of every byte. -/
theorem byte_xor_induction {P : Byte → Prop} (hbit : ∀ i < 8, P (1#8 <<< i))
    (hxor : ∀ x y, P x → P y → P (x ^^^ y)) (x : Byte) : P x := by
  have hzero : P 0 := by simpa using hxor _ _ (hbit 0 (by omega)) (hbit 0 (by omega))
  have hpart (i : Nat) (hi : i < 8) : P (if x.getLsbD i then 1#8 <<< i else 0) := by
    split
    · exact hbit i hi
    · exact hzero
  have hsum : ∀ x : Byte,
      (List.range 8).foldl (fun acc i => acc ^^^ if x.getLsbD i then 1#8 <<< i else 0) 0 = x := by decide +kernel
  rw [← hsum x]
  refine List.foldlRecOn _ _ hzero fun acc hacc i hi => hxor _ _ hacc (hpart i (List.mem_range.1 hi))

theorem xor_xor_xor_cancel (p q a : Byte) : (p ^^^ a) ^^^ (q ^^^ a) = p ^^^ q := by
  rw [BitVec.xor_comm q, BitVec.xor_assoc, ← BitVec.xor_assoc a, BitVec.xor_self, BitVec.zero_xor]

theorem xtime_xor (a b : Byte) : xtime (a ^^^ b) = xtime a ^^^ xtime b := by
  unfold xtime
  rw [BitVec.getLsbD_xor, BitVec.shiftLeft_xor_distrib]
  cases a.getLsbD 7 <;> cases b.getLsbD 7 <;> simp [xor_xor_xor_cancel] <;> ac_rfl

/-- The loop of 41_gf R172 is additive in the factor whose bits it walks. -/
theorem foldl_gfmulTurn_xor (b c : Byte) (l : List Nat) (p q a : Byte) :
    (l.foldl (gfmulTurn (b ^^^ c)) (p ^^^ q, a)).1 =
      (l.foldl (gfmulTurn b) (p, a)).1 ^^^ (l.foldl (gfmulTurn c) (q, a)).1 := by
  induction l generalizing p q a with
  | nil => rfl
  | cons i l ih =>
    have hturn : gfmulTurn (b ^^^ c) (p ^^^ q, a) i =
        ((gfmulTurn b (p, a) i).1 ^^^ (gfmulTurn c (q, a) i).1, xtime a) := by
      simp only [gfmulTurn, BitVec.getLsbD_xor]
      cases b.getLsbD i <;> cases c.getLsbD i <;> simp [xor_xor_xor_cancel] <;> ac_rfl
    rw [List.foldl_cons, hturn]
    exact ih _ _ _

theorem gfmul_xor (a b c : Byte) : gfmul a (b ^^^ c) = gfmul a b ^^^ gfmul a c := by
  simpa [gfmul] using foldl_gfmulTurn_xor b c (List.range 8) 0 0 a

/-- The product with x^i is i times xtime (41_gf R171). -/
theorem gfmul_bit (a : Byte) (i : Nat) (hi : i < 8) : gfmul a (1#8 <<< i) = xtime^[i] a := by
  interval_cases i <;> simp [gfmul, gfmulTurn, List.range, List.range.loop]

@[simp] theorem gfmul_one (a : Byte) : gfmul a 1#8 = a := gfmul_bit a 0 (by omega)

@[simp] theorem one_gfmul : ∀ b : Byte, gfmul 1#8 b = b := by decide +kernel

theorem gfmul_xtime (a b : Byte) : gfmul a (xtime b) = xtime (gfmul a b) := by
  induction b using byte_xor_induction with
  | hbit i hi =>
    have hbelow : ∀ j : Fin 7, xtime (1#8 <<< j.val) = 1#8 <<< (j.val + 1) := by decide
    have htop : ∀ a : Byte, gfmul a (xtime (1#8 <<< 7)) = xtime (gfmul a (1#8 <<< 7)) := by decide +kernel
    obtain hlt | rfl : i < 7 ∨ i = 7 := by omega
    · rw [hbelow ⟨i, hlt⟩, gfmul_bit a i hi, gfmul_bit a (i + 1) (by omega), Function.iterate_succ_apply']
    · exact htop a
  | hxor x y hx hy => rw [xtime_xor, gfmul_xor, hx, hy, gfmul_xor, xtime_xor]

theorem gfmul_assoc (a b c : Byte) : gfmul (gfmul a b) c = gfmul a (gfmul b c) := by
  induction c using byte_xor_induction with
  | hbit i hi =>
    have hcomm : Function.Semiconj (gfmul a) xtime xtime := gfmul_xtime a
    rw [gfmul_bit _ i hi, gfmul_bit b i hi]
    exact (hcomm.iterate_right i b).symm
  | hxor x y hx hy => rw [gfmul_xor, hx, hy, gfmul_xor b, gfmul_xor]

/-- The inverse of the affine transformation (41_gf R175). -/
def affineInverse (y : Byte) : Byte := y.rotateLeft 1 ^^^ y.rotateLeft 3 ^^^ y.rotateLeft 6 ^^^ 0x05

theorem affine_affineInverse : ∀ y : Byte, affine (affineInverse y) = y := by decide +kernel

/-- The one evaluation of the inversion: it is the listed S-box without its affine transformation (41_gf R176, R184). -/
theorem gfinv_eq_affineInverse : ∀ x : Byte, gfinv x = affineInverse (sboxListed x) := by decide +kernel

theorem sbox_eq_sboxListed (x : Byte) : sbox x = sboxListed x := by
  rw [sbox, gfinv_eq_affineInverse, affine_affineInverse]

theorem invSbox_sbox (x : Byte) : invSbox (sbox x) = x := by
  rw [sbox_eq_sboxListed]
  revert x
  decide +kernel

theorem sbox_invSbox (y : Byte) : sbox (invSbox y) = y := by
  rw [sbox_eq_sboxListed]
  revert y
  decide +kernel

theorem gfinv_zero : gfinv 0 = 0 := by decide +kernel

theorem gfmul_gfinv {a : Byte} (ha : a ≠ 0) : gfmul a (gfinv a) = 1#8 := by
  rw [gfinv_eq_affineInverse]
  revert a
  decide +kernel

theorem gfinv_gfmul {a : Byte} (ha : a ≠ 0) : gfmul (gfinv a) a = 1#8 := by
  rw [gfinv_eq_affineInverse]
  revert a
  decide +kernel

/-- An inverse is unique, since multiplication is associative. -/
theorem eq_gfinv_of_gfmul_eq_one {a y : Byte} (ha : a ≠ 0) (h : gfmul a y = 1#8) : y = gfinv a := by
  calc y = gfmul (gfmul (gfinv a) a) y := by rw [gfinv_gfmul ha, one_gfmul]
    _ = gfmul (gfinv a) (gfmul a y) := gfmul_assoc _ _ _
    _ = gfinv a := by rw [h, gfmul_one]

end Sys2Proof
end

section
/-! PROOFS. Table generation gives the listed tables whatever the tables held (41_gf R183-R185). -/

namespace Sys2Proof

/-- An array written at the places `f x` for `x` in `l`, when writes to the same place agree. -/
theorem Bank.get_foldl_set {n : Nat} (f : Nat → Fin n) (v : Nat → Word) (l : List Nat) (b : Bank n) (x : Nat)
    (hagree : ∀ y ∈ l, f y = f x → v y = v x) (h : x ∈ l ∨ b.get (f x) = v x) :
    (l.foldl (fun b y => b.set (f y) (v y)) b).get (f x) = v x := by
  induction l generalizing b with
  | nil => simpa using h
  | cons y l ih =>
    refine ih _ (fun z hz => hagree z (List.mem_cons_of_mem y hz)) ?_
    beta_reduce
    by_cases hplace : f y = f x
    · right
      rw [hplace, Bank.get_set_self, hagree y List.mem_cons_self hplace]
    · rw [Bank.get_set_ne _ _ _ _ hplace]
      have hne : x ≠ y := fun e => hplace (e ▸ rfl)
      simpa [hne] using h

end Sys2Proof

namespace Sys2Proof.Machine

theorem generateInvSbox_get (old : Bank 256) (x : Byte) :
    (generateInvSbox old).get (sbox x).toFin = x.setWidth 32 := by
  have hbyte : BitVec.ofNat 8 x.toNat = x := by simp
  have hword : BitVec.ofNat 32 x.toNat = x.setWidth 32 := BitVec.ofNat_toNat 32 x
  have hagree (y : Nat) (hy : y ∈ List.range 256)
      (h : (sbox (BitVec.ofNat 8 y)).toFin = (sbox (BitVec.ofNat 8 x.toNat)).toFin) :
      BitVec.ofNat 32 y = BitVec.ofNat 32 x.toNat := by
    have hsame : BitVec.ofNat 8 y = x := by
      rw [← invSbox_sbox (BitVec.ofNat 8 y), BitVec.eq_of_toFin_eq h, hbyte, invSbox_sbox]
    have hy256 : y % 256 = y := Nat.mod_eq_of_lt (List.mem_range.1 hy)
    rw [← hsame, BitVec.toNat_ofNat, hy256]
  have hget := Bank.get_foldl_set (fun y => (sbox (BitVec.ofNat 8 y)).toFin) (BitVec.ofNat 32) (List.range 256) old
    x.toNat hagree (.inl (List.mem_range.2 x.isLt))
  rw [hbyte, hword] at hget
  rw [generateInvSbox]
  exact hget

theorem generateInvSbox_eq_listed (old : Bank 256) : generateInvSbox old = Tables.listed.invSbox := by
  refine Bank.ext_get fun i => ?_
  have hplace : (sbox (invSbox (BitVec.ofFin i))).toFin = i := by rw [sbox_invSbox]
  have hlisted : Tables.listed.invSbox.get i = (invSbox (BitVec.ofFin i)).setWidth 32 := by simp [Tables.listed]
  rw [hlisted, ← generateInvSbox_get old, hplace]

/-- The writes of 41_gf R183 reach every entry, since the S-box is onto. -/
theorem generateTables_eq_listed (old : Tables) : generateTables old = Tables.listed := by
  simp only [generateTables, generateInvSbox_eq_listed, sbox_eq_sboxListed]
  rfl

end Sys2Proof.Machine
end

section
/-! PROOFS. The invariant: each operation on the state keeps it, so each agent's move and each step does. -/

namespace Sys2Proof.Machine

/-! The sequencer's part: a command's checks read the parameters, the PKE unit and the AES unit alone. -/

theorem commandChecks_congr (i : Instr) {s t : State} (hparams : t.params = s.params) (hpke : t.pke = s.pke)
    (haes : t.aes = s.aes) : commandChecks i t = commandChecks i s := by
  cases s
  cases t
  cases hparams
  cases hpke
  cases haes
  cases i <;> rfl

theorem State.seqInv_of_idle {s : State} (h : s.ctl.seq = .idle) : s.SeqInv := by
  simp only [State.SeqInv, h]

theorem State.seqInv_of_tblgenReset {s : State} (h : s.ctl.seq = .tblgenReset) : s.SeqInv := by
  simp only [State.SeqInv, h]

theorem State.seqInv_of_busy {s : State} {i : Instr} (h : s.ctl.seq = .busy i) :
    s.SeqInv ↔ i.WellFormed ∧ commandChecks i s = none := by
  simp only [State.SeqInv, h]

theorem State.SeqInv.congr {s t : State} (h : s.SeqInv) (hseq : t.ctl.seq = s.ctl.seq)
    (hparams : t.params = s.params) (hpke : t.pke = s.pke) (haes : t.aes = s.aes) : t.SeqInv := by
  cases hq : s.ctl.seq with
  | idle => exact State.seqInv_of_idle (hseq.trans hq)
  | tblgenReset => exact State.seqInv_of_tblgenReset (hseq.trans hq)
  | busy i =>
    rw [State.seqInv_of_busy (hseq.trans hq), commandChecks_congr i hparams hpke haes]
    exact (State.seqInv_of_busy hq).1 h

theorem decode_wellFormed {c : Word} {i : Instr} (h : decode c = .ok i) : i.WellFormed := by
  have himm : (immField c).toNat ≤ 255 := by omega
  have hcommand : commandOf (opcField c) (immField c).toNat = some i := by
    unfold decode at h
    split at h
    · cases h
    · next j hj =>
      split_ifs at h
      cases h
      exact hj
  unfold commandOf at hcommand
  split at hcommand <;> cases hcommand <;> simp [Instr.WellFormed, Instr.wellFormed, himm]

/-! The invariant without the line: every write and every command ends in the line's equation (10_state R57). -/

/-- `State.Inv` without its field `irq`. -/
structure State.InvButIrq (s : State) : Prop where
  params : s.params.Legal
  err : s.ErrInv
  key : s.KeyInv
  tables : s.TablesInv
  slots : s.SlotsInv
  seq : s.SeqInv
  vars : varsWf s.host.vars = true

theorem State.Inv.butIrq {s : State} (h : s.Inv) : s.InvButIrq :=
  ⟨h.params, h.err, h.key, h.tables, h.slots, h.seq, h.vars⟩

theorem State.InvButIrq.refreshIrq {s : State} (h : s.InvButIrq) : s.refreshIrq.Inv :=
  { params := h.params, irq := rfl, err := h.err, key := h.key, tables := h.tables, slots := h.slots,
    seq := h.seq.congr rfl rfl rfl rfl, vars := h.vars }

/-- The invariant speaks of no GF or SHA register, no turn and no free value, and of the host's variables alone. -/
theorem State.Inv.congr {s t : State} (h : s.Inv) (hparams : t.params = s.params) (hctl : t.ctl = s.ctl)
    (hpke : t.pke = s.pke) (htables : t.tables = s.tables) (haes : t.aes = s.aes)
    (hvars : varsWf t.host.vars = true) : t.Inv := by
  refine ⟨?_, ?_, ?_, ?_, ?_, ?_, h.seq.congr (by rw [hctl]) hparams hpke haes, hvars⟩
  · rw [hparams]
    exact h.params
  · rw [State.IrqInv, hctl]
    exact h.irq
  · rw [State.ErrInv, hctl]
    exact h.err
  · rw [State.KeyInv, haes]
    exact h.key
  · rw [State.TablesInv, htables, hctl]
    exact h.tables
  · rw [State.SlotsInv, hparams, hpke]
    exact h.slots

/-! Submission (60_exceptions R322, R323). -/

theorem ErrCode.code_ne_zero (code : ErrCode) : code.code ≠ 0 := by
  cases code <;> decide

theorem State.InvButIrq.reject {s : State} (h : s.InvButIrq) (opc : Byte) (code : ErrCode) :
    (s.reject opc code).Inv := by
  apply State.InvButIrq.refreshIrq
  exact
    { h with
      err := ⟨iff_of_true rfl code.code_ne_zero, fun herr => Bool.noConfusion herr⟩
      seq := h.seq.congr rfl rfl rfl rfl }

theorem State.InvButIrq.accept {s : State} {i : Instr} (h : s.InvButIrq) (hidle : s.ctl.seq = .idle)
    (hwf : i.WellFormed) (hchecks : commandChecks i s = none) : (s.accept i).Inv := by
  have hlisted : s.tables = Tables.listed := by simpa [State.TablesInv, hidle] using h.tables
  apply State.InvButIrq.refreshIrq
  refine { h with tables := by simpa [State.TablesInv] using hlisted, seq := ?_ }
  exact (State.seqInv_of_busy rfl).2 ⟨hwf, (commandChecks_congr i (by rfl) (by rfl) (by rfl)).trans hchecks⟩

/-! Completion (10_state R62): the effect of a command whose checks pass. -/

theorem emptyAbove_limbsOf {maxLimbs L : Nat} (v : Nat) (h : L ≤ maxLimbs) : emptyAbove maxLimbs (limbsOf L v) := by
  intro i hi
  rw [limbsOf, Bank.get_ofFn, if_neg (by omega)]

theorem limbs_le_of_commandChecks {i : Instr} {s : State} (hi : i ∈ [Instr.modexp, .rsaCrypt, .modmul, .montmul])
    (h : commandChecks i s = none) : s.limbs ≤ s.params.maxLimbs := by
  by_contra hlarge
  have hbad : s.badLen = true := by
    simp only [State.badLen, Bool.or_eq_true, decide_eq_true_eq]
    omega
  simp only [List.mem_cons, List.not_mem_nil, or_false] at hi
  obtain rfl | rfl | rfl | rfl := hi <;>
    simp [commandChecks, modulusChecks, rsaChecks, montChecks, hbad] at h

theorem State.SlotsInv.writeResult {s : State} (h : s.SlotsInv) (hlen : s.limbs ≤ s.params.maxLimbs) (v : Nat) :
    (s.writeResult v).SlotsInv := by
  obtain ⟨ha, hb, he, hn, -⟩ := h
  exact ⟨ha, hb, he, hn, emptyAbove_limbsOf v hlen⟩

theorem State.SlotsInv.commandEffect {i : Instr} {s : State} (h : s.SlotsInv) (hchecks : commandChecks i s = none) :
    (commandEffect i s).SlotsInv := by
  cases i with
  | modexp => exact h.writeResult (limbs_le_of_commandChecks (by simp) hchecks) _
  | rsaCrypt => exact h.writeResult (limbs_le_of_commandChecks (by simp) hchecks) _
  | modmul => exact h.writeResult (limbs_le_of_commandChecks (by simp) hchecks) _
  | montmul => exact h.writeResult (limbs_le_of_commandChecks (by simp) hchecks) _
  | _ => exact h

theorem State.KeyInv.commandEffect {i : Instr} {s : State} (h : s.KeyInv) (hchecks : commandChecks i s = none) :
    (commandEffect i s).KeyInv := by
  cases i with
  | aesExpand kl =>
    have hkl : kl ≤ 2 := by simpa [commandChecks, keylenCheck] using hchecks
    interval_cases kl <;> simp [State.KeyInv, Machine.commandEffect, nrOf]
  | _ => exact h

theorem commandEffect_tables_listed {i : Instr} {s : State} (h : s.tables = Tables.listed) :
    (commandEffect i s).tables = Tables.listed := by
  cases i with
  | tblGen => exact generateTables_eq_listed _
  | _ => exact h

theorem State.Inv.complete {i : Instr} {s : State} (h : s.Inv) (hbusy : s.ctl.seq = .busy i) :
    (commandEffect i s).finish.Inv := by
  obtain ⟨hparams, hctl, hhost, -, -⟩ := commandEffect_frame i s
  obtain ⟨-, hchecks⟩ := (State.seqInv_of_busy hbusy).1 h.seq
  have hlisted : s.tables = Tables.listed := by simpa [State.TablesInv, hbusy] using h.tables
  have herr : (commandEffect i s).ErrInv := by
    rw [State.ErrInv, hctl]
    exact h.err
  apply State.InvButIrq.refreshIrq
  exact
    { params := by simpa only [hparams] using h.params
      err := herr
      key := State.KeyInv.commandEffect h.key hchecks
      tables := commandEffect_tables_listed hlisted
      slots := h.slots.commandEffect hchecks
      seq := State.seqInv_of_idle rfl
      vars := by simpa only [hhost] using h.vars }

theorem State.Inv.exec {i : Instr} {s t : State} (h : s.Inv) (hwf : i.WellFormed) (he : exec i s = .next t) :
    t.Inv := by
  obtain ⟨hbusy, rfl⟩ | ⟨-, -, rfl⟩ | ⟨-, code, -, rfl⟩ | ⟨hidle, hchecks, rfl⟩ := exec_cases he
  · exact h.complete hbusy
  · exact h.butIrq.reject _ _
  · exact h.butIrq.reject _ _
  · exact h.butIrq.accept hidle hwf hchecks

/-! The host's writes (20_memory R87). -/

theorem State.Inv.submitWord {c : Word} {s t : State} (h : s.Inv) (he : submitWord c s = .next t) : t.Inv := by
  obtain ⟨-, e⟩ | ⟨-, err, -, e⟩ | ⟨-, i, hdecode, e⟩ := submitWord_cases c s
  · cases e.symm.trans he
    exact h.butIrq.reject _ _
  · cases e.symm.trans he
    exact h.butIrq.reject _ _
  · exact h.exec (decode_wellFormed hdecode) (e.symm.trans he)

theorem State.Inv.withCmdLast {s : State} (h : s.Inv) (v : Word) : (s.withCmdLast v).Inv :=
  { h with seq := h.seq.congr rfl rfl rfl rfl }

theorem State.Inv.setWib {s : State} (h : s.Inv) : s.setWib.Inv :=
  { h with seq := h.seq.congr rfl rfl rfl rfl }

theorem emptyAbove_zero (maxLimbs : Nat) : emptyAbove maxLimbs (Bank.zero 256) := fun i _ => Bank.get_zero i

/-- The reset clears all the invariant speaks of, whatever the engine held (70_reset_and_hazards R361). -/
theorem State.engineReset_inv {s : State} (hparams : s.params.Legal) (hvars : varsWf s.host.vars = true) :
    s.engineReset.Inv where
  params := hparams
  irq := rfl
  err := by simp [State.ErrInv]
  key := by simp [State.KeyInv, State.engineReset]
  tables := rfl
  slots := ⟨emptyAbove_zero _, emptyAbove_zero _, emptyAbove_zero _, emptyAbove_zero _, emptyAbove_zero _⟩
  seq := State.seqInv_of_tblgenReset rfl
  vars := hvars

theorem State.Inv.writeCtrl {s : State} (h : s.Inv) (v : Word) : (s.writeCtrl v).InvButIrq := by
  obtain ⟨-, e⟩ | ⟨-, e⟩ := s.writeCtrl_cases v
  · rw [e]
    exact (State.engineReset_inv h.params h.vars).butIrq
  · rw [e]
    exact { h.butIrq with seq := h.seq.congr rfl rfl rfl rfl }

theorem State.Inv.writeStatus {s : State} (h : s.Inv) (v : Word) : (s.writeStatus v).InvButIrq := by
  refine { h.butIrq with err := ?_, seq := h.seq.congr rfl rfl rfl rfl }
  cases hclear : v.getLsbD 2 with
  | true => simp [State.ErrInv, State.writeStatus, hclear]
  | false =>
    simpa only [State.ErrInv, State.writeStatus, hclear, Bool.not_false, Bool.and_true, Bool.false_eq_true,
      if_false] using h.err

theorem emptyAbove_set {maxLimbs : Nat} {x : Bank 256} (h : emptyAbove maxLimbs x) {i : Fin 256}
    (hi : i.val < maxLimbs) (v : Word) : emptyAbove maxLimbs (x.set i v) := by
  intro j hj
  have hne : i ≠ j := by
    rintro rfl
    omega
  rw [Bank.get_set_ne _ _ _ _ hne]
  exact h j hj

theorem locAt_present {maxLimbs off : Nat} {l : Loc} (h : locAt maxLimbs off = some l) :
    l.present maxLimbs = true := (Option.filter_eq_some_iff.1 h).2

/-- A store reaches only slots that exist (10_state R54). -/
theorem State.SlotsInv.storeReg {s : State} (h : s.SlotsInv) {l : Loc} (hl : l.present s.params.maxLimbs = true)
    (v : Word) : (s.storeReg l v).SlotsInv := by
  obtain ⟨ha, hb, he, hn, hr⟩ := h
  cases l with
  | pkeA i => exact ⟨emptyAbove_set ha (of_decide_eq_true hl) v, hb, he, hn, hr⟩
  | pkeB i => exact ⟨ha, emptyAbove_set hb (of_decide_eq_true hl) v, he, hn, hr⟩
  | pkeE i => exact ⟨ha, hb, emptyAbove_set he (of_decide_eq_true hl) v, hn, hr⟩
  | pkeN i => exact ⟨ha, hb, he, emptyAbove_set hn (of_decide_eq_true hl) v, hr⟩
  | _ => exact ⟨ha, hb, he, hn, hr⟩

theorem storeReg_keyInv {s : State} (h : s.KeyInv) (l : Loc) (v : Word) : (s.storeReg l v).KeyInv := by
  cases l <;> exact h

theorem State.Inv.storeReg {s : State} (h : s.Inv) {l : Loc} (hl : l.present s.params.maxLimbs = true)
    (hidle : s.ctl.seq = .idle) (v : Word) : (s.storeReg l v).InvButIrq := by
  obtain ⟨hparams, hctl, htables, hhost, -, -⟩ := storeReg_frame l v s
  exact
    { params := by simpa only [hparams] using h.params
      err := by simpa only [State.ErrInv, hctl] using h.err
      key := storeReg_keyInv h.key l v
      tables := by simpa only [State.TablesInv, htables, hctl] using h.tables
      slots := h.slots.storeReg hl v
      seq := State.seqInv_of_idle (by rw [hctl, hidle])
      vars := by simpa only [hhost] using h.vars }

theorem State.Inv.windowWrite {off : Nat} {v : Word} {s t : State} (h : s.Inv) (he : windowWrite off v s = .next t) :
    t.Inv := by
  obtain e | e | e | e | e | ⟨l, hl, hidle, e⟩ := windowWrite_cases off v s
  · cases e.symm.trans he
    exact h.butIrq.refreshIrq
  · cases e.symm.trans he
    exact (h.writeCtrl v).refreshIrq
  · cases e.symm.trans he
    exact (h.writeStatus v).refreshIrq
  · exact (h.withCmdLast v).submitWord (e.symm.trans he)
  · cases e.symm.trans he
    exact h.setWib.butIrq.refreshIrq
  · cases e.symm.trans he
    exact (h.storeReg (locAt_present hl) hidle v).refreshIrq

theorem State.Inv.busWrite {addr width : Nat} {v : Word} {s t : State} (h : s.Inv)
    (he : busWrite addr width v s = .next t) : t.Inv := by
  obtain ⟨-, e⟩ | ⟨-, -, e⟩ | ⟨-, -, e⟩ := busWrite_cases addr width v s
  · cases e.symm.trans he
  · cases e.symm.trans he
  · exact h.windowWrite (e.symm.trans he)

theorem State.Inv.windowRead {s : State} (h : s.Inv) (off : Nat) : (windowRead off s).2.Inv := by
  obtain e | e := windowRead_state off s
  · rw [e]
    exact h
  · rw [e]
    exact h.congr rfl rfl rfl rfl rfl h.vars

theorem State.Inv.busRead {addr width : Nat} {r : Word × State} {s : State} (h : s.Inv)
    (he : busRead addr width s = .next r) : r.2.Inv := by
  obtain ⟨-, e⟩ | ⟨-, -, e⟩ | ⟨-, -, e⟩ := busRead_cases addr width s
  · cases e.symm.trans he
  · cases e.symm.trans he
  · cases e.symm.trans he
    exact h.windowRead _

/-! The three agents' moves. -/

theorem State.Inv.advance {s : State} (h : s.Inv) : s.advance.Inv := h.congr rfl rfl rfl rfl rfl h.vars

theorem State.Inv.endRun {s : State} (h : s.Inv) (r : HostRun) : (s.endRun r).Inv :=
  h.congr rfl rfl rfl rfl rfl h.vars

theorem State.Inv.bind {s : State} (h : s.Inv) (k : Option Nat) (v : Nat) : (s.bind k v).Inv := by
  cases k with
  | none => exact h
  | some k => exact h.congr rfl rfl rfl rfl rfl (varsWf_varsSet _ k v h.vars)

theorem State.Inv.goto {s : State} (h : s.Inv) (target : Target) : (s.goto target).Inv := by
  cases target with
  | index n => exact h.congr rfl rfl rfl rfl rfl h.vars
  | fail => exact h.endRun .failed

theorem State.Inv.runStmt {st : Stmt} {s t : State} (h : s.Inv) (he : runStmt st s = .next t) : t.Inv := by
  cases st with
  | memWrite addr width v => exact h.advance.busWrite he
  | memRead addr width k =>
    cases hread : Machine.busRead addr width s.advance with
    | next r =>
      simp only [Machine.runStmt, hread] at he
      cases he
      exact (h.advance.busRead hread).bind k _
    | fault f => simp [Machine.runStmt, hread] at he
    | refused r => simp [Machine.runStmt, hread] at he
  | jbit k b target =>
    simp only [Machine.runStmt] at he
    split at he
    · cases he
      exact h.goto target
    · cases he
      exact h.advance
  | jmp target =>
    cases he
    exact h.goto target
  | sumLimbs k parts =>
    cases he
    exact h.advance.bind _ _
  | check k v =>
    simp only [Machine.runStmt] at he
    split at he
    · cases he
      exact h.advance
    · cases he
      exact h.endRun .failed
  | halt =>
    cases he
    exact h.endRun .halted

theorem State.Inv.completeTblgenReset {s : State} (h : s.Inv) : (completeTblgenReset s).Inv := by
  apply State.InvButIrq.refreshIrq
  exact
    { h.butIrq with
      tables := generateTables_eq_listed _
      seq := State.seqInv_of_idle rfl }

theorem State.Inv.sequencerStep {s t : State} (h : s.Inv) (he : sequencerStep s = .next t) : t.Inv := by
  cases hq : s.ctl.seq with
  | idle =>
    cases (sequencerStep_idle hq).symm.trans he
    exact h
  | busy i =>
    obtain ⟨hwf, -⟩ := (State.seqInv_of_busy hq).1 h.seq
    exact h.exec hwf ((sequencerStep_busy hq).symm.trans he)
  | tblgenReset =>
    cases (sequencerStep_tblgenReset hq).symm.trans he
    exact h.completeTblgenReset

theorem State.Inv.turnStep {a : Turn} {s t : State} (h : s.Inv) (he : turnStep a s = .next t) : t.Inv := by
  cases a with
  | host =>
    obtain ⟨st, -, -, e⟩ | e := hostStep_cases s
    · exact h.runStmt (e.symm.trans he)
    · cases e.symm.trans he
      exact h
  | sequencer => exact h.sequencerStep he
  | powerOnReset =>
    cases he
    exact State.engineReset_inv h.params h.vars

/-- Settles O40: whoever moves, the move keeps the invariant, and the invariant does not speak of the turns. -/
theorem stepKeepsInvariant : Obligations.StepKeepsInvariant := by
  intro s t h he
  obtain ⟨-, e⟩ | ⟨a, rest, -, e⟩ := step_eq s
  · exact h.turnStep (e.symm.trans he)
  · have hrest : State.Inv { s with turns := rest } := h.congr rfl rfl rfl rfl rfl h.vars
    exact hrest.turnStep (e.symm.trans he)

/-- Settles O41: after reset the tables are the listed ones and every PKE slot is 0. -/
theorem resetMeetsInvariant : Obligations.ResetMeetsInvariant where
  params := by decide
  irq := rfl
  err := by decide
  key := by decide
  tables := rfl
  slots := ⟨emptyAbove_zero _, emptyAbove_zero _, emptyAbove_zero _, emptyAbove_zero _, emptyAbove_zero _⟩
  seq := State.seqInv_of_idle rfl
  vars := rfl

end Sys2Proof.Machine
end

section
/-! PROOFS. The completion of a command in one form, NOP's, and the PKE unit's: the powers and the Montgomery product. -/

namespace Sys2Proof.Machine

theorem State.finish_eq (s : State) :
    s.finish = { s with ctl := { s.ctl with seq := .idle, done := true, irq := s.ctl.ie } } := by
  simp [State.finish, State.refreshIrq]

/-- A completion is the command's effect with the BUSY period ended (10_state R62). -/
theorem exec_completes {i : Instr} {s : State} (h : s.ctl.seq = .busy i) :
    exec i s =
      .next { commandEffect i s with ctl := { s.ctl with seq := .idle, done := true, irq := s.ctl.ie } } := by
  obtain ⟨-, hctl, -, -, -⟩ := commandEffect_frame i s
  rw [exec_busy i s h, State.finish_eq, hctl]

/-- Settles O13: NOP's effect is none. -/
theorem nopCompletes : Obligations.NopCompletes := fun _ h => exec_completes h

/-! Modular powers (40_pke R144, R145). -/

/-- The loop of 40_pke R145 from `x mod n`, over the `j` low bits of `e`: it squares `x` `j` times and multiplies by the
power of `a` that these bits give. -/
theorem modexpLoop_eq (a e n j x : Nat) : modexpLoop a e n j (x % n) = x ^ 2 ^ j * a ^ (e % 2 ^ j) % n := by
  induction j generalizing x with
  | zero => simp [modexpLoop, Nat.mod_one]
  | succ j ih =>
    have hsq : x % n * (x % n) % n = x * x % n := (Nat.mul_mod x x n).symm
    have hpow : x ^ 2 ^ (j + 1) = (x * x) ^ 2 ^ j := by rw [pow_succ', pow_mul, pow_two]
    rw [modexpLoop, hsq, hpow, Nat.mod_pow_succ, ← Nat.toNat_testBit]
    cases e.testBit j with
    | false => simpa using ih (x * x)
    | true =>
      have hmul : x * x % n * a % n = x * x * a % n := by rw [Nat.mod_mul_mod]
      calc modexpLoop a e n j (x * x % n * a % n) = (x * x * a) ^ 2 ^ j * a ^ (e % 2 ^ j) % n := by rw [hmul, ih]
        _ = (x * x) ^ 2 ^ j * a ^ (e % 2 ^ j + 2 ^ j * true.toNat) % n := by
          rw [mul_pow, Bool.toNat_true, mul_one, pow_add, mul_assoc, mul_comm (a ^ 2 ^ j)]

theorem lt_two_pow_bitlen (x : Nat) : x < 2 ^ bitlen x := by
  unfold bitlen
  split
  · simp [*]
  · exact Nat.lt_log2_self

theorem modexpRef_eq_pow_mod (a e n : Nat) : modexpRef a e n = a ^ e % n := by
  rw [modexpRef, modexpLoop_eq, one_pow, one_mul, Nat.mod_eq_of_lt (lt_two_pow_bitlen e)]

/-- Settles O14: both commands write the reference algorithm's result, which is the power. -/
theorem exponentiationsComplete : Obligations.ExponentiationsComplete := by
  intro i s hi hbusy
  rw [← modexpRef_eq_pow_mod]
  obtain rfl | rfl := hi
  · exact exec_completes hbusy
  · exact exec_completes hbusy

/-- Settles O15, from the completion in one form. -/
theorem modmulCompletes : Obligations.ModmulCompletes := fun _ h => exec_completes h

/-! The Montgomery product (40_pke R148, R150). -/

/-- (n + 1) / 2 is the inverse of 2 modulo an odd n, so its power is that of RADIX. -/
theorem radixInv_mul_radix (L n : Nat) (hodd : n % 2 = 1) : radixInv L n * radix L ≡ 1 [MOD n] := by
  have hhalf : (n + 1) / 2 * 2 = n + 1 := by omega
  have hsucc : n + 1 ≡ 1 [MOD n] := by simp [Nat.ModEq]
  calc radixInv L n * radix L = ((n + 1) / 2) ^ (32 * L) % n * 2 ^ (32 * L) := by
        rw [radixInv, modexpRef_eq_pow_mod, radix]
    _ ≡ ((n + 1) / 2) ^ (32 * L) * 2 ^ (32 * L) [MOD n] := (Nat.mod_modEq _ n).mul_right _
    _ = (n + 1) ^ (32 * L) := by rw [← mul_pow, hhalf]
    _ ≡ 1 ^ (32 * L) [MOD n] := hsucc.pow _
    _ = 1 := one_pow _

theorem montProduct_mul_radix (L n a b : Nat) (hodd : n % 2 = 1) :
    montProduct L n a b * radix L ≡ a * b [MOD n] :=
  calc montProduct L n a b * radix L ≡ a * b * radixInv L n * radix L [MOD n] := (Nat.mod_modEq _ n).mul_right _
    _ = a * b * (radixInv L n * radix L) := mul_assoc _ _ _
    _ ≡ a * b * 1 [MOD n] := (radixInv_mul_radix L n hodd).mul_left _
    _ = a * b := mul_one _

theorem montProduct_lt (L n a b : Nat) (hodd : n % 2 = 1) : montProduct L n a b < n :=
  Nat.mod_lt _ (by omega)

/-- RADIX is coprime to an odd modulus, so a factor RADIX cancels. -/
theorem eq_of_mul_radix_modEq {L n x y : Nat} (hodd : n % 2 = 1) (hx : x < n) (hy : y < n)
    (h : x * radix L ≡ y * radix L [MOD n]) : x = y := by
  have hcoprime : Nat.gcd n (radix L) = 1 := (Nat.coprime_two_right.2 (Nat.odd_iff.2 hodd)).pow_right _
  exact (Nat.ModEq.cancel_right_of_coprime hcoprime h).eq_of_lt_of_lt hx hy

/-- Settles O16: the product is below n, satisfies the congruence, and RADIX cancels from it. -/
theorem montmulCompletes : Obligations.MontmulCompletes := by
  intro s hbusy hodd
  have hmont : montProduct s.limbs s.opN s.opA s.opB * radix s.limbs ≡ s.opA * s.opB [MOD s.opN] :=
    montProduct_mul_radix _ _ _ _ hodd
  have hlt := montProduct_lt s.limbs s.opN s.opA s.opB hodd
  refine ⟨montProduct s.limbs s.opN s.opA s.opB, hlt, hmont, fun r' hr' h => ?_, exec_completes hbusy⟩
  exact eq_of_mul_radix_modEq hodd hr' hlt (Nat.ModEq.trans h hmont.symm)

end Sys2Proof.Machine
end

section
/-! PROOFS. The completions of the GFU and AES commands, and table generation by command and after a reset. -/

namespace Sys2Proof.Machine

/-- Settles O18: GFINV's clause from the existence and the uniqueness of the inverse. -/
theorem gfCommandsComplete : Obligations.GfCommandsComplete := by
  intro s
  refine ⟨fun h => exec_completes h, fun h => exec_completes h, fun h => ?_⟩
  refine ⟨gfinv s.gf.a, exec_completes h, fun ha => ?_, fun ha => ⟨gfmul_gfinv ha, fun y' hy' => ?_⟩⟩
  · rw [ha, gfinv_zero]
  · exact eq_gfinv_of_gfmul_eq_one ha hy'

/-! Table generation (41_gf R183, 70_reset_and_hazards R362). -/

/-- Settles O19, since generation gives the listed tables from any tables. -/
theorem tblGenCompletes : Obligations.TblGenCompletes := by
  intro s h
  rw [← generateTables_eq_listed s.tables]
  exact exec_completes h

theorem completeTblgenReset_eq (s : State) :
    completeTblgenReset s =
      { s with
        tables := Tables.listed
        ctl := { s.ctl with seq := .idle, irq := s.ctl.ie && (s.ctl.done || s.ctl.err) } } := by
  rw [completeTblgenReset, generateTables_eq_listed]
  rfl

/-- Settles O28: the sequencer's step is the completion that does not touch DONE. -/
theorem tableGenerationAfterResetCompletes : Obligations.TableGenerationAfterResetCompletes := by
  intro s h
  rw [sequencerStep_tblgenReset h, completeTblgenReset_eq]

/-- Settles O39: the reset clears every register but the tables, which its completion generates. -/
theorem resetSequenceReachesReset : Obligations.ResetSequenceReachesReset := by
  intro s
  refine ⟨rfl, ?_⟩
  rw [sequencerStep_tblgenReset (State.engineReset_seq s), completeTblgenReset_eq]
  rfl

/-! The single AES transforms (42_aes R204-R210). -/

/-- A byte of the state put together from its bytes (42_aes R200). -/
theorem lane_stateOf (f : Fin 4 → Fin 4 → Byte) (r c : Fin 4) : lane ((stateOf f).get c) r.val = f r c := by
  obtain ⟨h0, h1, h2, h3⟩ := lane_packBytes (f 0 c) (f 1 c) (f 2 c) (f 3 c)
  rw [stateOf, Bank.get_ofFn]
  match r with
  | 0 => exact h0
  | 1 => exact h1
  | 2 => exact h2
  | 3 => exact h3

/-- Settles O22: each effect is a state given byte by byte. -/
theorem byteTransformsComplete : Obligations.ByteTransformsComplete := by
  intro s
  refine ⟨fun h => ⟨subBytes s.aes.data, fun r c => ?_, exec_completes h⟩,
    fun h => ⟨invSubBytes s.aes.data, fun r c => lane_stateOf _ r c, exec_completes h⟩,
    fun h => ⟨shiftRows s.aes.data, fun r c => lane_stateOf _ r c, exec_completes h⟩,
    fun h => ⟨invShiftRows s.aes.data, fun r c => lane_stateOf _ r c, exec_completes h⟩⟩
  rw [subBytes, lane_stateOf, sbox_eq_sboxListed, stateByte]

/-- Settles O23: row `r` of the circulant matrix is its first row moved, and the factor 01 multiplies by nothing. -/
theorem mixTransformsComplete : Obligations.MixTransformsComplete := by
  intro s
  refine ⟨fun h => ⟨mixColumns s.aes.data, fun r c => ?_, exec_completes h⟩,
    fun h => ⟨invMixColumns s.aes.data, fun r c => ?_, exec_completes h⟩⟩
  · rw [mixColumns, mixWith, lane_stateOf]
    fin_cases r <;> simp [stateByte] <;> ac_rfl
  · rw [invMixColumns, mixWith, lane_stateOf]
    fin_cases r <;> simp [stateByte] <;> ac_rfl

/-- Settles O21, from the completion in one form. -/
theorem cipherCommandsComplete : Obligations.CipherCommandsComplete := fun _ =>
  ⟨fun h => exec_completes h, fun h => exec_completes h⟩

/-- Settles O24: a round key of the schedule array stands at a word that exists. -/
theorem addRoundKeyCompletes : Obligations.AddRoundKeyCompletes := by
  intro round s hround h
  refine ⟨addRoundKey s.aes.rk round s.aes.data, fun c => ?_, exec_completes h⟩
  rw [addRoundKey, Bank.get_ofFn, Bank.getD_of_lt]

end Sys2Proof.Machine
end

section
/-! PROOFS. The two schedules, AES's and SHA's, as lists grown word by word, and the completions of the commands that write them. -/

namespace Sys2Proof

theorem Bank.getD_ofFn {n : Nat} (f : Fin n → Word) {k : Nat} (h : k < n) : (Bank.ofFn f).getD k = f ⟨k, h⟩ := by
  rw [Bank.getD_of_lt _ _ h, Bank.get_ofFn]

end Sys2Proof

namespace Sys2Proof.Machine

/-! A list grown at its end: the loop that 42_aes R203 and 43_sha R246 share. -/

/-- `k` more words after `ws`, each the value of `next` at the words before it. -/
def growWith (next : List Word → Word) : Nat → List Word → List Word
  | 0, ws => ws
  | k + 1, ws => growWith next k (ws ++ [next ws])

theorem growWith_extends (next : List Word → Word) (k : Nat) (ws : List Word) : ws <+: growWith next k ws := by
  induction k generalizing ws with
  | zero => exact List.prefix_rfl
  | succ k ih => exact (List.prefix_append ws [next ws]).trans (ih _)

theorem growWith_getD_of_lt (next : List Word → Word) (k : Nat) (ws : List Word) {i : Nat} (h : i < ws.length) :
    (growWith next k ws).getD i 0 = ws.getD i 0 := by
  obtain ⟨more, hmore⟩ := growWith_extends next k ws
  rw [← hmore, List.getD_append _ _ _ _ h]

/-- A grown word is `next` of the words before it. -/
theorem growWith_getD_of_le (next : List Word → Word) (k : Nat) (ws : List Word) {i : Nat} (hle : ws.length ≤ i)
    (hlt : i < ws.length + k) :
    (growWith next k ws).getD i 0 = next ((growWith next k ws).take i) := by
  induction k generalizing ws with
  | zero => omega
  | succ k ih =>
    have hlen : (ws ++ [next ws]).length = ws.length + 1 := by simp
    obtain rfl | hi : i = ws.length ∨ ws.length + 1 ≤ i := by omega
    · have htake : (growWith next k (ws ++ [next ws])).take ws.length = ws := by
        obtain ⟨more, hmore⟩ := growWith_extends next k (ws ++ [next ws])
        rw [← hmore, List.append_assoc, List.take_left]
      rw [growWith, htake, growWith_getD_of_lt _ _ _ (by omega)]
      simp [List.getD_eq_getElem?_getD]
    · exact ih (ws ++ [next ws]) (by omega) (by omega)

theorem getD_take {l : List Word} {i j : Nat} (h : j < i) : (l.take i).getD j 0 = l.getD j 0 := by
  rw [List.getD_eq_getElem?_getD, List.getElem?_take_of_lt h, List.getD_eq_getElem?_getD]

theorem length_growWith (next : List Word → Word) (k : Nat) (ws : List Word) :
    (growWith next k ws).length = ws.length + k := by
  induction k generalizing ws with
  | zero => rfl
  | succ k ih =>
    rw [growWith, ih, List.length_append, List.length_singleton]
    omega

/-! The key schedule (42_aes R203). -/

/-- The word after the words `ws` of a key schedule. -/
def expandNext (nk : Nat) (ws : List Word) : Word :=
  ws.getD (ws.length - nk) 0 ^^^ expandTerm nk ws.length (ws.getD (ws.length - 1) 0)

theorem expandMore_eq_growWith (nk k : Nat) (ws : List Word) : expandMore nk k ws = growWith (expandNext nk) k ws := by
  induction k generalizing ws with
  | zero => rfl
  | succ k ih => exact ih _

theorem keyExpansion_getD_key {nk : Nat} (nr : Nat) {key : List Word} {i : Nat} (hkey : nk ≤ key.length)
    (hi : i < nk) : (keyExpansion nk nr key).getD i 0 = key.getD i 0 := by
  have hlen : (key.take nk).length = nk := by simp [hkey]
  rw [keyExpansion, expandMore_eq_growWith, growWith_getD_of_lt _ _ _ (by omega), getD_take hi]

theorem keyExpansion_getD_recurrence {nk nr : Nat} {key : List Word} {i : Nat} (hkey : nk ≤ key.length)
    (hpos : 0 < nk) (hle : nk ≤ i) (hlt : i < scheduleWords nr) :
    (keyExpansion nk nr key).getD i 0 =
      (keyExpansion nk nr key).getD (i - nk) 0 ^^^ expandTerm nk i ((keyExpansion nk nr key).getD (i - 1) 0) := by
  have hlen : (key.take nk).length = nk := by simp [hkey]
  rw [keyExpansion, expandMore_eq_growWith]
  have htotal := length_growWith (expandNext nk) (scheduleWords nr - nk) (key.take nk)
  rw [growWith_getD_of_le _ _ _ (by omega) (by omega), expandNext, List.length_take_of_le (by omega),
    getD_take (by omega), getD_take (by omega)]

theorem scheduleBank_getD {kl : Nat} (key : Bank 8) {i : Nat} (hlt : i < scheduleWords (nrOf kl))
    (hbound : i < 60) :
    (scheduleBank kl key).getD i = (keyExpansion (nkOf kl) (nrOf kl) key.words).getD i 0 := by
  rw [scheduleBank, Bank.getD_ofFn _ hbound, if_pos hlt]

theorem scheduleBank_getD_above {kl : Nat} (key : Bank 8) {i : Nat} (hle : scheduleWords (nrOf kl) ≤ i)
    (hbound : i < 60) : (scheduleBank kl key).getD i = 0 := by
  rw [scheduleBank, Bank.getD_ofFn _ hbound, if_neg (Nat.not_lt.2 hle)]

/-- Settles O20: the schedule array holds the grown list, whose growth is the recurrence of 42_aes R203. -/
theorem aesExpandCompletes : Obligations.AesExpandCompletes := by
  intro kl nk nr s hcode h
  obtain ⟨hnk, hnr, hpos, hnk8, hwords⟩ :
      nkOf kl = nk ∧ nrOf kl = nr ∧ 0 < nk ∧ nk ≤ 8 ∧ scheduleWords nr ≤ 60 := by
    obtain ⟨rfl, rfl, rfl⟩ | ⟨rfl, rfl, rfl⟩ | ⟨rfl, rfl, rfl⟩ := hcode <;> decide
  have hkey : nk ≤ s.aes.key.words.length := by rw [s.aes.key.length_eq]; exact hnk8
  have hget (i : Nat) (hi : i < scheduleWords nr) :
      (scheduleBank kl s.aes.key).getD i = (keyExpansion nk nr s.aes.key.words).getD i 0 := by
    subst hnk hnr
    exact scheduleBank_getD _ hi (by omega)
  refine ⟨scheduleBank kl s.aes.key, ?_, fun i hi => ?_, fun i hle hlt => ?_, fun i hle hlt => ?_⟩
  · rw [← hnr]
    exact exec_completes h
  · rw [hget i (by unfold scheduleWords; omega), keyExpansion_getD_key nr hkey hi, Bank.getD]
  · rw [hget i hlt, hget (i - nk) (by unfold scheduleWords; omega), hget (i - 1) (by unfold scheduleWords; omega)]
    exact keyExpansion_getD_recurrence hkey hpos hle hlt
  · subst hnr
    exact scheduleBank_getD_above _ hle hlt

/-! The message schedule and the compression (43_sha R246, R247). -/

theorem scheduleMore_eq_growWith (k : Nat) (ws : List Word) :
    scheduleMore k ws = growWith (fun ws => scheduleWord ws ws.length) k ws := by
  induction k generalizing ws with
  | zero => rfl
  | succ k ih => exact ih _

theorem length_messageSchedule (m : Bank 16) : (messageSchedule m.words).length = 64 := by
  rw [messageSchedule, scheduleMore_eq_growWith, length_growWith, m.length_eq]

theorem scheduleOf_getD (m : Bank 16) {t : Nat} (h : t < 64) :
    (scheduleOf m).getD t = (messageSchedule m.words).getD t 0 := Bank.getD_ofFn _ h

theorem scheduleOf_getD_block (m : Bank 16) {t : Nat} (h : t < 16) : (scheduleOf m).getD t = m.getD t := by
  rw [scheduleOf_getD m (by omega), messageSchedule, scheduleMore_eq_growWith,
    growWith_getD_of_lt _ _ _ (by rw [m.length_eq]; exact h), Bank.getD]

theorem scheduleOf_getD_recurrence (m : Bank 16) {t : Nat} (hle : 16 ≤ t) (hlt : t < 64) :
    (scheduleOf m).getD t =
      smallSigma1 ((scheduleOf m).getD (t - 2)) + (scheduleOf m).getD (t - 7)
        + smallSigma0 ((scheduleOf m).getD (t - 15)) + (scheduleOf m).getD (t - 16) := by
  have hlen := length_messageSchedule m
  rw [scheduleOf_getD m hlt, scheduleOf_getD m (by omega), scheduleOf_getD m (by omega),
    scheduleOf_getD m (by omega), scheduleOf_getD m (by omega)]
  rw [messageSchedule, scheduleMore_eq_growWith] at hlen ⊢
  rw [growWith_getD_of_le _ _ _ (by rw [m.length_eq]; exact hle) (by rw [m.length_eq]; omega),
    List.length_take_of_le (by omega), scheduleWord, getD_take (by omega), getD_take (by omega),
    getD_take (by omega), getD_take (by omega)]

/-- The rounds over two lists of one length, as a walk over the round numbers. -/
theorem shaRounds_eq_foldl (ks ws : List Word) (v : Working) (h : ks.length = ws.length) :
    shaRounds ks ws v = (List.range ks.length).foldl (fun v t => shaRound v (ks.getD t 0) (ws.getD t 0)) v := by
  induction ks generalizing ws v with
  | nil => rfl
  | cons k ks ih =>
    cases ws with
    | nil => simp at h
    | cons w ws =>
      rw [List.length_cons, List.range_succ_eq_map, List.foldl_cons, List.foldl_map]
      exact ih ws _ (by simpa using h)

/-- The working variables after the 64 rounds of 43_sha R247 over a schedule array, from the hash value `h`. -/
def workingAfter (h : Bank 8) (w : Bank 64) : Working :=
  (List.range 64).foldl (fun v t => shaRound v (shaK.getD t 0) (w.getD t))
    ⟨h.get 0, h.get 1, h.get 2, h.get 3, h.get 4, h.get 5, h.get 6, h.get 7⟩

theorem shaRounds_eq_workingAfter (h : Bank 8) (m : Bank 16) :
    shaRounds shaK (messageSchedule m.words)
        ⟨h.get 0, h.get 1, h.get 2, h.get 3, h.get 4, h.get 5, h.get 6, h.get 7⟩ =
      workingAfter h (scheduleOf m) := by
  have hlen : shaK.length = (messageSchedule m.words).length := (length_messageSchedule m).symm
  rw [shaRounds_eq_foldl _ _ _ hlen]
  refine List.foldl_ext _ _ _ fun v t ht => ?_
  rw [scheduleOf_getD m (List.mem_range.1 ht)]

theorem shaCompressBlock_words (h : Bank 8) (m : Bank 16) :
    (shaCompressBlock h m).words =
      let v := workingAfter h (scheduleOf m)
      [h.get 0 + v.a, h.get 1 + v.b, h.get 2 + v.c, h.get 3 + v.d, h.get 4 + v.e, h.get 5 + v.f, h.get 6 + v.g,
        h.get 7 + v.h] := by
  rw [shaCompressBlock, shaRounds_eq_workingAfter]
  generalize workingAfter h (scheduleOf m) = v
  rfl

/-- Settles O25: the array built from the listed words holds them. -/
theorem shaInitCompletes : Obligations.ShaInitCompletes := fun _ h => ⟨_, rfl, exec_completes h⟩

/-- Settles O26: SHA_SCHED holds the grown list, whose growth is the recurrence of 43_sha R246. -/
theorem shaScheduleCompletes : Obligations.ShaScheduleCompletes := fun s h =>
  ⟨scheduleOf s.sha.w, fun _ => scheduleOf_getD_block _, fun _ => scheduleOf_getD_recurrence _, exec_completes h⟩

/-- Settles O27: the schedule as for SHA_SCHEDULE, and the rounds walk over its words. -/
theorem shaCompressCompletes : Obligations.ShaCompressCompletes := fun s h =>
  ⟨scheduleOf s.sha.w, shaCompressBlock s.sha.h s.sha.w, fun _ => scheduleOf_getD_block _,
    fun _ => scheduleOf_getD_recurrence _, shaCompressBlock_words _ _, exec_completes h⟩

end Sys2Proof.Machine
end

section
/-! PROOFS. The frame of every command, register by register (10_state R61). -/

namespace Sys2Proof.Machine

/-! Each write of a result changes the reading of its own registers alone. -/

section

variable {l : Loc} (s : State)

theorem readReg_withPkeR (r : Bank 256) (h : l.resultReg ≠ some .pkeR) :
    (s.withPkeR r).readReg l = s.readReg l := by
  cases l with
  | pkeR i => exact absurd rfl h
  | _ => rfl

theorem readReg_withGfRes (v : Byte) (h : l.resultReg ≠ some .gfRes) :
    (s.withGfRes v).readReg l = s.readReg l := by
  cases l with
  | gfRes => exact absurd rfl h
  | _ => rfl

theorem readReg_withTables (t : Tables) (hstatus : l ≠ .status) (hsbox : l.resultReg ≠ some .sbox)
    (hinv : l.resultReg ≠ some .invSbox) (hrcon : l.resultReg ≠ some .rcon) :
    (s.withTables t).readReg l = s.readReg l := by
  cases l with
  | status => exact absurd rfl hstatus
  | sbox i => exact absurd rfl hsbox
  | invSbox i => exact absurd rfl hinv
  | rcon i => exact absurd rfl hrcon
  | _ => rfl

theorem readReg_withSchedule (rk : Bank 60) (kl : BitVec 2) (nr : BitVec 4) (hstatus : l ≠ .status)
    (h : l.resultReg ≠ some .aesRk) : (s.withSchedule rk kl nr).readReg l = s.readReg l := by
  cases l with
  | status => exact absurd rfl hstatus
  | aesRk i => exact absurd rfl h
  | _ => rfl

theorem readReg_withAesData (d : Bank 4) (h : l.resultReg ≠ some .aesData) :
    (s.withAesData d).readReg l = s.readReg l := by
  cases l with
  | aesData i => exact absurd rfl h
  | _ => rfl

theorem readReg_withShaH (v : Bank 8) (h : l.resultReg ≠ some .shaH) :
    (s.withShaH v).readReg l = s.readReg l := by
  cases l with
  | shaH i => exact absurd rfl h
  | _ => rfl

theorem readReg_withShaSched (w : Bank 64) (h : l.resultReg ≠ some .shaSched) :
    (s.withShaSched w).readReg l = s.readReg l := by
  cases l with
  | shaSched i => exact absurd rfl h
  | _ => rfl

theorem readReg_finish (hstatus : l ≠ .status) : s.finish.readReg l = s.readReg l := by
  cases l with
  | status => exact absurd rfl hstatus
  | _ => rfl

theorem readReg_reject (opc : Byte) (code : ErrCode) (hstatus : l ≠ .status) (herrcode : l ≠ .errcode) :
    (s.reject opc code).readReg l = s.readReg l := by
  cases l with
  | status => exact absurd rfl hstatus
  | errcode => exact absurd rfl herrcode
  | _ => rfl

theorem readReg_accept (i : Instr) (hstatus : l ≠ .status) : (s.accept i).readReg l = s.readReg l := by
  cases l with
  | status => exact absurd rfl hstatus
  | _ => rfl

end

/-! The effect of each command writes its write set alone. -/

theorem readReg_commandEffect {i : Instr} {l : Loc} (s : State) (hstatus : l ≠ .status)
    (hset : ∀ r, l.resultReg = some r → r ∉ writeSet i) : (commandEffect i s).readReg l = s.readReg l := by
  have hfree (r : ResultReg) (hr : r ∈ writeSet i) : l.resultReg ≠ some r := fun e => hset r e hr
  cases i with
  | nop => rfl
  | modexp | rsaCrypt | modmul | montmul => exact readReg_withPkeR s _ (hfree .pkeR List.mem_cons_self)
  | gfadd | gfmul | gfinv => exact readReg_withGfRes s _ (hfree .gfRes List.mem_cons_self)
  | tblGen =>
    exact readReg_withTables s _ hstatus (hfree .sbox (by decide)) (hfree .invSbox (by decide))
      (hfree .rcon (by decide))
  | aesExpand kl => exact readReg_withSchedule s _ _ _ hstatus (hfree .aesRk List.mem_cons_self)
  | aesEnc | aesDec | aesSubBytes | aesInvSubBytes | aesShiftRows | aesInvShiftRows | aesMixColumns
  | aesInvMixColumns | aesAddRoundKey _ => exact readReg_withAesData s _ (hfree .aesData List.mem_cons_self)
  | shaInit => exact readReg_withShaH s _ (hfree .shaH List.mem_cons_self)
  | shaCompress =>
    exact (readReg_withShaH _ _ (hfree .shaH (by decide))).trans
      (readReg_withShaSched s _ (hfree .shaSched (by decide)))
  | shaSchedule => exact readReg_withShaSched s _ (hfree .shaSched List.mem_cons_self)

theorem commandEffect_tables {i : Instr} (s : State) (h : i ≠ .tblGen) : (commandEffect i s).tables = s.tables := by
  cases i with
  | tblGen => exact absurd rfl h
  | _ => rfl

theorem commandEffect_keyFields {i : Instr} (s : State) (h : ∀ kl, i ≠ .aesExpand kl) :
    (commandEffect i s).aes.keyValid = s.aes.keyValid ∧ (commandEffect i s).aes.keylen = s.aes.keylen ∧
      (commandEffect i s).aes.nr = s.aes.nr := by
  cases i with
  | aesExpand kl => exact absurd rfl (h kl)
  | _ => exact ⟨rfl, rfl, rfl⟩

/-- Settles O29: a completion is an effect and the end of the BUSY period; a submission rejects or accepts. -/
theorem commandsWriteOnlyTheirWriteSet : Obligations.CommandsWriteOnlyTheirWriteSet := by
  intro i s t h
  obtain ⟨hbusy, rfl⟩ | ⟨hnot, -, rfl⟩ | ⟨hidle, code, -, rfl⟩ | ⟨hidle, -, rfl⟩ := exec_cases h
  · obtain ⟨hparams, hctl, hhost, hturns, hdraws⟩ := commandEffect_frame i s
    refine ⟨hparams, hhost, hturns, hdraws, by simp [hctl], by simp [hctl], by simp [hctl],
      fun l hstatus _ hset => (readReg_finish _ hstatus).trans (readReg_commandEffect s hstatus hset),
      fun _ => ⟨by simp [hctl], by simp [hctl], by simp [hctl], commandEffect_tables s, commandEffect_keyFields s⟩,
      fun hne => absurd hbusy hne⟩
  · exact ⟨rfl, rfl, rfl, rfl, rfl, rfl, rfl, fun l hstatus herrcode _ => readReg_reject s _ _ hstatus herrcode,
      fun hbusy => absurd hbusy hnot, fun _ => ⟨rfl, rfl, rfl, rfl, rfl, rfl⟩⟩
  · exact ⟨rfl, rfl, rfl, rfl, rfl, rfl, rfl, fun l hstatus herrcode _ => readReg_reject s _ _ hstatus herrcode,
      fun hbusy => by simp [hidle] at hbusy, fun _ => ⟨rfl, rfl, rfl, rfl, rfl, rfl⟩⟩
  · exact ⟨rfl, rfl, rfl, rfl, rfl, rfl, rfl, fun l hstatus _ _ => readReg_accept s i hstatus,
      fun hbusy => by simp [hidle] at hbusy, fun _ => ⟨rfl, rfl, rfl, rfl, rfl, rfl⟩⟩

end Sys2Proof.Machine
end

section
/-! PROOFS. The register map (10_state R32): every register word is where its offset says. -/

namespace Sys2Proof.Machine

theorem Loc.offset_aligned (l : Loc) : l.offset % 4 = 0 := by
  cases l <;> simp only [Loc.offset] <;> omega

theorem Loc.offset_lt (l : Loc) : l.offset < 0x4000 := by
  cases l <;> simp only [Loc.offset] <;> omega

theorem scalarAt_offset {k : Nat} {l : Loc} (h : scalarAt k = some l) : l.offset = 4 * k := by
  unfold scalarAt at h
  split at h <;> cases h <;> rfl

theorem dite_some_cases {c : Prop} [Decidable c] {f : c → Loc} {rest : Option Loc} {l : Loc}
    (h : (if hc : c then some (f hc) else rest) = some l) : (∃ hc : c, l = f hc) ∨ rest = some l := by
  by_cases hc : c
  · rw [dif_pos hc] at h
    exact .inl ⟨hc, (Option.some.inj h).symm⟩
  · rw [dif_neg hc] at h
    exact .inr h

/-- The 14 arrays in the order of `arrayAt`: a word index in an array's range is that of its word. -/
theorem arrayAt_offset {k : Nat} {l : Loc} (h : arrayAt k = some l) : l.offset = 4 * k := by
  unfold arrayAt at h
  iterate 14
    obtain ⟨hc, rfl⟩ | h := dite_some_cases h
    · simp only [Loc.offset]
      omega
  cases h

/-- The register word at a word index, whether PKE_MAX_LIMBS lets it exist or not. -/
def wordAt (k : Nat) : Option Loc := if k < 10 then scalarAt k else arrayAt k

theorem locAt_eq_filter (maxLimbs off : Nat) : locAt maxLimbs off = (wordAt (off / 4)).filter (Loc.present maxLimbs) :=
  rfl

theorem wordAt_offset_of_eq {k : Nat} {l : Loc} (h : wordAt k = some l) : l.offset = 4 * k := by
  unfold wordAt at h
  split at h
  · exact scalarAt_offset h
  · exact arrayAt_offset h

theorem wordAt_offset (l : Loc) : wordAt (l.offset / 4) = some l := by
  cases l with
  | id | config | ctrl | status | cmd | errcode | pkeLen | gfA | gfB | gfRes => rfl
  | aesKey i | aesData i | shaH i | shaW i | shaSched i | aesRk i | sbox i | invSbox i | rcon i | pkeA i | pkeB i
  | pkeE i | pkeN i | pkeR i =>
    simp only [Loc.offset]
    rw [wordAt, if_neg (by omega), arrayAt]
    repeat rw [dif_neg (by omega)]
    rw [dif_pos (by omega)]
    refine congrArg some (congrArg _ (Fin.ext ?_))
    dsimp only
    omega

theorem locAt_offset (maxLimbs : Nat) (l : Loc) :
    locAt maxLimbs l.offset = if l.present maxLimbs then some l else none := by
  rw [locAt_eq_filter, wordAt_offset, Option.filter_some]

theorem locAt_offset_of_present {maxLimbs : Nat} {l : Loc} (h : l.present maxLimbs = true) :
    locAt maxLimbs l.offset = some l := by
  rw [locAt_offset, if_pos h]

/-- Settles O30, from the map in both directions. -/
theorem registerMapIsExact : Obligations.RegisterMapIsExact := by
  intro maxLimbs
  refine ⟨fun l => ⟨l.offset_aligned, l.offset_lt, locAt_offset maxLimbs l⟩, fun off l haligned _ h => ?_⟩
  have hword : wordAt (off / 4) = some l := (Option.filter_eq_some_iff.1 h).1
  have hoffset := wordAt_offset_of_eq hword
  exact ⟨by omega, locAt_present h⟩

end Sys2Proof.Machine
end

section
/-! PROOFS. Host accesses to aligned words of the window (20_memory R83-R87) and the submission of a command's word. -/

namespace Sys2Proof.Machine

/-! An aligned access of the window is a window access; at a register's offset it is the register's. -/

theorem inWindow_base_add (p : Params) {off : Nat} (h : off < 0x4000) : inWindow p (p.base + off) = true := by
  simp [inWindow, h]

theorem acceptedAccess_base_add (p : Params) {off : Nat} (h : off % 4 = 0) :
    acceptedAccess p (p.base + off) 4 = true := by
  simp [acceptedAccess, h]

theorem busRead_window (s : State) {off : Nat} (haligned : off % 4 = 0) (hlt : off < 0x4000) :
    busRead (s.params.base + off) 4 s = .next (windowRead off s) := by
  rw [busRead, inWindow_base_add _ hlt, acceptedAccess_base_add _ haligned, Nat.add_sub_cancel_left]
  rfl

theorem busWrite_window (s : State) (v : Word) {off : Nat} (haligned : off % 4 = 0) (hlt : off < 0x4000) :
    busWrite (s.params.base + off) 4 v s = windowWrite off v s := by
  rw [busWrite, inWindow_base_add _ hlt, acceptedAccess_base_add _ haligned, Nat.add_sub_cancel_left]
  rfl

theorem busWrite_offset (s : State) (v : Word) {l : Loc} (h : l.present s.params.maxLimbs = true) :
    busWrite (s.params.base + l.offset) 4 v s = writeReg l v s := by
  rw [busWrite_window s v l.offset_aligned l.offset_lt, windowWrite, locAt_offset_of_present h]

/-! Reads (20_memory R86, 10_state R61). -/

theorem windowRead_reserved {off : Nat} {s : State} (h : locAt s.params.maxLimbs off = none) :
    windowRead off s = (0, s) := by
  simp only [windowRead, h]

theorem windowRead_of_ne_status {off : Nat} {s : State} {l : Loc} (h : locAt s.params.maxLimbs off = some l)
    (hne : l ≠ .status) : windowRead off s = if inWriteSet s.ctl.seq l then s.drawn else (s.readReg l, s) := by
  cases l with
  | status => exact absurd rfl hne
  | _ => simp only [windowRead, h]

theorem getLsbD_select (x y mask : Word) (k : Nat) :
    ((x &&& ~~~mask) ||| (y &&& mask)).getLsbD k = if mask.getLsbD k then y.getLsbD k else x.getLsbD k := by
  have hx : (x.getLsbD k && decide (k < 32)) = x.getLsbD k := by
    cases hbit : x.getLsbD k with
    | false => rfl
    | true => simpa using BitVec.lt_of_getLsbD hbit
  simp only [BitVec.getLsbD_or, BitVec.getLsbD_and, BitVec.getLsbD_not]
  cases mask.getLsbD k <;> simp [hx]

theorem select_zero (x y : Word) : (x &&& ~~~0) ||| (y &&& 0) = x := by
  apply BitVec.eq_of_getLsbD_eq
  intro k _
  rw [getLsbD_select]
  simp

/-- A read of STATUS has the bits of the write set free and the others as they stand. -/
theorem windowRead_status {off : Nat} {s : State} (h : locAt s.params.maxLimbs off = some .status) :
    windowRead off s =
      ((s.statusWord &&& ~~~statusWriteSet s.ctl.seq) ||| (Config.draw s.draws &&& statusWriteSet s.ctl.seq),
        { s with draws := if statusWriteSet s.ctl.seq = 0 then s.draws else s.draws + 1 }) := by
  simp only [windowRead, h]
  split
  · next hnone => rw [hnone, select_zero]
  · rfl

/-- Settles O31, clause by clause of the window read. -/
theorem hostReadValues : Obligations.HostReadValues := by
  intro s off haligned hlt
  rw [busRead_window s haligned hlt]
  refine ⟨fun h => ?_, fun l h hne hset => ?_, fun l h hne hset => ?_, fun h => ?_⟩
  · rw [windowRead_reserved h]
  · rw [windowRead_of_ne_status h hne, hset]
    rfl
  · rw [windowRead_of_ne_status h hne, hset]
    rfl
  · rw [windowRead_status h]
    refine ⟨_, _, rfl, fun k hk => ?_, fun k hk => ?_⟩
    · rw [getLsbD_select, hk]
      rfl
    · rw [getLsbD_select, hk]
      rfl

/-! Writes by kind of register (20_memory R87, 10_state R63). -/

theorem State.refreshIrq_of_irqInv {s : State} (h : s.IrqInv) : s.refreshIrq = s := by
  rw [State.refreshIrq, ← h]

theorem State.isBusy_of_ne_idle {s : State} (h : s.ctl.seq ≠ .idle) : s.isBusy = true := by
  simp [State.isBusy, h]

theorem State.isBusy_of_idle {s : State} (h : s.ctl.seq = .idle) : s.isBusy = false := by
  simp [State.isBusy, h]

theorem writeReg_readOnly {l : Loc} (h : l.readOnly = true) (v : Word) (s : State) :
    writeReg l v s = .next s.refreshIrq := by
  cases l <;> cases h <;> rfl

theorem writeReg_dataReg {l : Loc} (h : l.dataReg = true) (v : Word) (s : State) :
    writeReg l v s = if s.isBusy then .next s.setWib.refreshIrq else .next (s.storeReg l v).refreshIrq := by
  cases l <;> cases h <;> rfl

theorem submitWord_busy (c : Word) {s : State} (h : s.ctl.seq ≠ .idle) :
    submitWord c s = .next (s.reject (opcField c) .busy) := by
  simp only [submitWord, State.isBusy_of_ne_idle h, if_true]

theorem submitWord_error {c : Word} {e : DecodeError} {s : State} (h : s.ctl.seq = .idle) (he : decode c = .error e) :
    submitWord c s = .next (s.reject (opcField c) (rejectionCode e)) := by
  simp [submitWord, State.isBusy_of_idle h, he]

theorem submitWord_ok {c : Word} {i : Instr} {s : State} (h : s.ctl.seq = .idle) (hi : decode c = .ok i) :
    submitWord c s = exec i s := by
  simp [submitWord, State.isBusy_of_idle h, hi]

theorem busWrite_ctrl (s : State) (v : Word) :
    busWrite (s.params.base + 0x08) 4 v s = .next (s.writeCtrl v).refreshIrq :=
  have hpresent : Loc.present s.params.maxLimbs .ctrl = true := rfl
  busWrite_offset s v hpresent

theorem busWrite_status (s : State) (v : Word) :
    busWrite (s.params.base + 0x0C) 4 v s = .next (s.writeStatus v).refreshIrq :=
  have hpresent : Loc.present s.params.maxLimbs .status = true := rfl
  busWrite_offset s v hpresent

theorem busWrite_cmd (s : State) (c : Word) :
    busWrite (s.params.base + 0x10) 4 c s = submitWord c (s.withCmdLast c) :=
  have hpresent : Loc.present s.params.maxLimbs .cmd = true := rfl
  busWrite_offset s c hpresent

/-- Settles O34, register by register of its clauses. -/
theorem busyPeriodWrites : Obligations.BusyPeriodWrites := by
  intro s v hirq
  refine ⟨fun hbusy => ⟨fun l hdata hpresent => ?_, busWrite_ctrl s v, busWrite_status s v, ?_⟩,
    fun l hro hpresent => ?_, fun off haligned hlt hnone => ⟨?_, ?_⟩⟩
  · have hwib : s.setWib.IrqInv := hirq
    rw [busWrite_offset s v hpresent, writeReg_dataReg hdata, State.isBusy_of_ne_idle hbusy, if_pos rfl,
      State.refreshIrq_of_irqInv hwib, State.setWib]
  · have hbusy' : (s.withCmdLast v).ctl.seq ≠ .idle := hbusy
    rw [busWrite_cmd, submitWord_busy v hbusy']
    rfl
  · rw [busWrite_offset s v hpresent, writeReg_readOnly hro, State.refreshIrq_of_irqInv hirq]
  · rw [busWrite_window s v haligned hlt, windowWrite, hnone, State.refreshIrq_of_irqInv hirq]
  · rw [busRead_window s haligned hlt, windowRead_reserved hnone]

/-- Settles O35: the write of STATUS, with the line re-evaluated. -/
theorem statusWriteClearsOnes : Obligations.StatusWriteClearsOnes := busWrite_status

/-- Settles O36: the two cases of the write of CTRL; after a reset the line is its equation. -/
theorem ctrlWriteStoresOrResets : Obligations.CtrlWriteStoresOrResets := by
  intro s v
  rw [busWrite_ctrl]
  obtain ⟨hreset, e⟩ | ⟨hstore, e⟩ := s.writeCtrl_cases v
  · exact ⟨fun h => Bool.noConfusion (hreset.symm.trans h), fun _ => by rw [e]; rfl⟩
  · exact ⟨fun _ => by rw [e]; rfl, fun h => Bool.noConfusion (hstore.symm.trans h)⟩

/-! Submissions (60_exceptions R322, R323). -/

theorem State.reject_eq (opc : Byte) (code : ErrCode) (s : State) :
    s.reject opc code =
      { s with ctl := { s.ctl with err := true, errCode := code.code, errOpc := opc, irq := s.ctl.ie } } := by
  simp [State.reject, State.refreshIrq]

/-- Settles O8: such a word is rejected after CMD_LAST is stored. -/
theorem refusedWordsChangeOnlyTheErrorState : Obligations.RefusedWordsChangeOnlyTheErrorState := by
  intro s c
  have hseq : (s.withCmdLast c).ctl.seq = s.ctl.seq := rfl
  rw [busWrite_cmd, ← hseq]
  refine ⟨fun hbusy => ?_, fun hidle he => ?_, fun hidle he => ?_⟩
  · rw [submitWord_busy c hbusy, State.reject_eq]
    rfl
  · rw [submitWord_error hidle he, State.reject_eq]
    rfl
  · rw [submitWord_error hidle he, State.reject_eq]
    rfl

/-- Settles O11: the line is its equation already. -/
theorem acceptanceChangesOnlySeq : Obligations.AcceptanceChangesOnlySeq := fun i s h =>
  have hline : State.IrqInv { s with ctl := { s.ctl with seq := .busy i } } := h
  State.refreshIrq_of_irqInv hline

theorem hostStep_running {s : State} {st : Stmt} (hrun : s.host.run = .running)
    (hfetch : s.host.program[s.host.pc]? = some st) : hostStep s = runStmt st s := by
  simp only [hostStep, hrun, State.fetch, hfetch]

/-- The host's statement that writes a command's word to CMD is the command, after the pc and CMD_LAST. -/
theorem hostStep_command {s : State} {c : Word} {i : Instr} (hrun : s.host.run = .running) (hidle : s.ctl.seq = .idle)
    (hfetch : s.host.program[s.host.pc]? = some (.memWrite (s.params.base + 0x10) 4 c)) (hdecode : decode c = .ok i) :
    hostStep s = exec i (s.advance.withCmdLast c) := by
  have hidle' : (s.advance.withCmdLast c).ctl.seq = .idle := hidle
  calc hostStep s = busWrite (s.advance.params.base + 0x10) 4 c s.advance := hostStep_running hrun hfetch
    _ = submitWord c (s.advance.withCmdLast c) := busWrite_cmd _ c
    _ = exec i (s.advance.withCmdLast c) := submitWord_ok hidle' hdecode

/-- Settles O6: the turn is the host's, and its statement is the command. -/
theorem hostCommandWriteRunsItsMeaning : Obligations.HostCommandWriteRunsItsMeaning := by
  intro s rest c i hturns hrun hidle hfetch hdecode
  rw [step_of_turns_cons hturns]
  refine hostStep_command ?_ ?_ ?_ hdecode
  · exact hrun
  · exact hidle
  · exact hfetch

end Sys2Proof.Machine
end

section
/-! PROOFS. Data registers written and read back, the layout of STATUS and ERRCODE, and the registers after reset. -/

namespace Sys2Proof.Machine

/-! Data registers (10_state R39-R49). -/

/-- What a data register keeps of a word: its reserved fields are discarded. -/
def Loc.keeps (l : Loc) (v : Word) : Word :=
  match l with
  | .pkeLen => v &&& 0x0000FFFF
  | .gfA => v &&& 0x000000FF
  | .gfB => v &&& 0x000000FF
  | _ => v

/-- Narrowing and widening a word masks its low bits. -/
theorem setWidth_setWidth_mask (v : Word) {w : Nat} (h : w ≤ 32) :
    (v.setWidth w).setWidth 32 = v &&& BitVec.ofNat 32 (2 ^ w - 1) := by
  apply BitVec.eq_of_toNat_eq
  have hpow : 2 ^ w ≤ 2 ^ 32 := Nat.pow_le_pow_right (by omega) h
  have hpos : 0 < 2 ^ w := Nat.two_pow_pos w
  have hlow : v.toNat % 2 ^ w % 2 ^ 32 = v.toNat % 2 ^ w := Nat.mod_eq_of_lt ((Nat.mod_lt _ hpos).trans_le hpow)
  have hmask : (2 ^ w - 1) % 2 ^ 32 = 2 ^ w - 1 := Nat.mod_eq_of_lt (by omega)
  rw [BitVec.toNat_setWidth, BitVec.toNat_setWidth, BitVec.toNat_and, BitVec.toNat_ofNat, hlow, hmask,
    Nat.and_two_pow_sub_one_eq_mod]

theorem readReg_storeReg_self {l : Loc} (h : l.dataReg = true) (v : Word) (s : State) :
    (s.storeReg l v).readReg l = l.keeps v := by
  cases l with
  | pkeLen => exact setWidth_setWidth_mask v (by omega)
  | gfA | gfB => exact setWidth_setWidth_mask v (by omega)
  | aesKey i | aesData i | shaH i | shaW i | pkeA i | pkeB i | pkeE i | pkeN i => exact Bank.get_set_self _ i v
  | _ => cases h

theorem readReg_storeReg_ne {l l' : Loc} (h : l' ≠ l) (v : Word) (s : State) :
    (s.storeReg l v).readReg l' = s.readReg l' := by
  have hindex {n : Nat} {i j : Fin n} {f : Fin n → Loc} (hl : l = f i) (hl' : l' = f j) : i ≠ j := by
    rintro rfl
    exact h (hl'.trans hl.symm)
  cases l <;> cases l'
  case pkeLen.pkeLen | gfA.gfA | gfB.gfB => exact absurd rfl h
  case aesKey.aesKey i j | aesData.aesData i j | shaH.shaH i j | shaW.shaW i j | pkeA.pkeA i j | pkeB.pkeB i j
      | pkeE.pkeE i j | pkeN.pkeN i j =>
    exact Bank.get_set_ne _ i j v (hindex rfl rfl)
  all_goals rfl

theorem readReg_refreshIrq {l : Loc} (hstatus : l ≠ .status) (s : State) : s.refreshIrq.readReg l = s.readReg l := by
  cases l with
  | status => exact absurd rfl hstatus
  | _ => rfl

theorem storeReg_keyFields (l : Loc) (v : Word) (s : State) :
    (s.storeReg l v).aes.keyValid = s.aes.keyValid ∧ (s.storeReg l v).aes.keylen = s.aes.keylen ∧
      (s.storeReg l v).aes.nr = s.aes.nr := by
  cases l <;> exact ⟨rfl, rfl, rfl⟩

theorem Loc.dataReg_ne_status {l : Loc} (h : l.dataReg = true) : l ≠ .status := by
  rintro rfl
  cases h

theorem inWriteSet_idle (l : Loc) : inWriteSet .idle l = false := by
  cases l <;> rfl

/-- An idle engine's registers read as they stand. -/
theorem busRead_idle {s : State} {l : Loc} (hidle : s.ctl.seq = .idle) (hstatus : l ≠ .status)
    (hpresent : l.present s.params.maxLimbs = true) :
    busRead (s.params.base + l.offset) 4 s = .next (s.readReg l, s) := by
  rw [busRead_window s l.offset_aligned l.offset_lt,
    windowRead_of_ne_status (locAt_offset_of_present hpresent) hstatus, hidle, inWriteSet_idle]
  rfl

theorem busWrite_dataReg_idle {s : State} {l : Loc} (hdata : l.dataReg = true)
    (hpresent : l.present s.params.maxLimbs = true) (hidle : s.ctl.seq = .idle) (v : Word) :
    busWrite (s.params.base + l.offset) 4 v s = .next (s.storeReg l v).refreshIrq := by
  rw [busWrite_offset s v hpresent, writeReg_dataReg hdata, State.isBusy_of_idle hidle]
  rfl

theorem busRead_storeReg {s : State} {l : Loc} (hdata : l.dataReg = true)
    (hpresent : l.present s.params.maxLimbs = true) (hidle : s.ctl.seq = .idle) (v : Word) :
    busRead (s.params.base + l.offset) 4 (s.storeReg l v).refreshIrq =
      .next (l.keeps v, (s.storeReg l v).refreshIrq) := by
  obtain ⟨hparams, hctl, -, -, -, -⟩ := storeReg_frame l v s
  have hstatus := Loc.dataReg_ne_status hdata
  have hidle' : (s.storeReg l v).refreshIrq.ctl.seq = .idle := by rw [State.refreshIrq_ctl, hctl, hidle]
  rw [← hparams, ← State.refreshIrq_params] at hpresent ⊢
  rw [busRead_idle hidle' hstatus hpresent, readReg_refreshIrq hstatus, readReg_storeReg_self hdata]

/-- Settles O33: the store's frame, and the reading of the register and of every other one after it. -/
theorem dataWriteReadsBack : Obligations.DataWriteReadsBack := by
  intro s l v hdata hpresent hidle
  obtain ⟨hparams, hctl, htables, hhost, hturns, hdraws⟩ := storeReg_frame l v s
  obtain ⟨hvalid, hkeylen, hnr⟩ := storeReg_keyFields l v s
  refine ⟨(s.storeReg l v).refreshIrq, busWrite_dataReg_idle hdata hpresent hidle v,
    busRead_storeReg hdata hpresent hidle v, fun l' hne hstatus => ?_, ?_, ?_, hvalid, hkeylen, hnr, hparams, hhost,
    hturns, hdraws⟩
  · rw [readReg_refreshIrq hstatus, readReg_storeReg_ne hne]
  · rw [State.refreshIrq_ctl, hctl]
  · rw [State.refreshIrq_tables, htables]

/-! The layout of STATUS and ERRCODE, and the registers after reset. -/

theorem State.isBusy_eq_decide (s : State) : s.isBusy = decide (s.ctl.seq ≠ .idle) := by
  by_cases h : s.ctl.seq = .idle <;> simp [State.isBusy, h]

/-- The bits of STATUS by their place in the word's parts (10_state R36). -/
theorem State.statusWord_getLsbD (s : State) (k : Nat) :
    s.statusWord.getLsbD k =
      if k < 1 then s.isBusy else if k - 1 < 1 then s.ctl.done else if k - 2 < 1 then s.ctl.err
      else if k - 3 < 1 then s.ctl.wib else if k - 4 < 1 then s.tables.ready else if k - 5 < 1 then s.aes.keyValid
      else if k - 6 < 2 then s.aes.keylen.getLsbD (k - 6) else if k - 8 < 4 then s.aes.nr.getLsbD (k - 8)
      else if k - 12 < 1 then s.ctl.irq else false := by
  have hflag (b : Bool) (j : Nat) (x : Bool) :
      (if j < 1 then (BitVec.ofBool b).getLsbD j else x) = if j < 1 then b else x := by
    split
    · next hj => rw [Nat.lt_one_iff.1 hj]; cases b <;> rfl
    · rfl
  simp only [State.statusWord, BitVec.getLsbD_append, hflag]
  simp only [Nat.sub_sub, Nat.reduceAdd, BitVec.ofNat_eq_ofNat, BitVec.getLsbD_zero]

/-- Settles O32, bit by bit of the words' parts. -/
theorem statusAndErrcodeLayout : Obligations.StatusAndErrcodeLayout := by
  intro s
  rw [← s.isBusy_eq_decide]
  refine ⟨s.statusWord_getLsbD 0, s.statusWord_getLsbD 1, s.statusWord_getLsbD 2, s.statusWord_getLsbD 3,
    s.statusWord_getLsbD 4, s.statusWord_getLsbD 5, ?_, ?_, s.statusWord_getLsbD 12, ?_, ?_, ?_, ?_⟩ <;>
    apply BitVec.eq_of_getLsbD_eq <;> intro k hk <;> rw [BitVec.getLsbD_extractLsb']
  · grind [State.statusWord_getLsbD]
  · grind [State.statusWord_getLsbD]
  · grind [State.statusWord_getLsbD]
  · grind [State.errcodeWord]
  · grind [State.errcodeWord]
  · grind [State.errcodeWord]
/-- Settles O38: the arrays are zeros, and the tables are those that table generation gives. -/
theorem resetRegisterValues : Obligations.ResetRegisterValues := by
  refine ⟨by decide, by decide, rfl, rfl, rfl, rfl, rfl, rfl, rfl, rfl, rfl, by decide, ?_, ?_, ?_, ?_, ?_, ?_, ?_⟩
  · exact fun i => ⟨Bank.get_zero i, Bank.get_zero i, Bank.get_zero i, Bank.get_zero i, Bank.get_zero i⟩
  · exact fun i => ⟨Bank.get_zero i, Bank.get_zero i⟩
  · exact fun i => Bank.get_zero i
  · exact fun i => Bank.get_zero i
  · exact fun i => ⟨Bank.get_zero i, Bank.get_ofFn _ i⟩
  · exact fun i => Bank.get_zero i
  · intro x
    have hsbox : State.reset.tables.sbox.get x = (sboxListed (BitVec.ofNat 8 x.val)).setWidth 32 := Bank.get_ofFn _ x
    have hinv : State.reset.tables.invSbox = generateInvSbox (Bank.zero 256) := (generateInvSbox_eq_listed _).symm
    have hbyte : (BitVec.ofNat 8 x.val).setWidth 32 = BitVec.ofNat 32 x.val := by
      rw [← BitVec.ofNat_toNat, BitVec.toNat_ofNat, Nat.mod_eq_of_lt x.isLt]
    rw [hsbox, sbox_eq_sboxListed, hinv, ← sbox_eq_sboxListed, generateInvSbox_get, hbyte]
    exact ⟨rfl, rfl⟩

end Sys2Proof.Machine
end

section
/-! PROOFS. Which accesses stop (20_memory R83-R85), and that nothing else stops a step: the engine answers every move, and the host's statements answer where their accesses are accepted (60_exceptions R325). -/

namespace Sys2Proof.Machine

/-! Where an access is accepted, and what it answers where it is not (20_memory R84, R85). -/

theorem inWindow_iff (p : Params) (addr : Nat) :
    inWindow p addr = true ↔ p.base ≤ addr ∧ addr < p.base + 0x4000 := by
  simp [inWindow, windowBytes]

theorem acceptedAccess_iff (p : Params) (addr width : Nat) :
    acceptedAccess p addr width = true ↔ width = 4 ∧ (addr - p.base) % 4 = 0 := by
  simp [acceptedAccess]

theorem busRead_outside {addr width : Nat} {s : State} (h : inWindow s.params addr = false) :
    busRead addr width s = .refused .platformAddress := by
  simp [busRead, h]

theorem busWrite_outside {addr width : Nat} {s : State} (v : Word) (h : inWindow s.params addr = false) :
    busWrite addr width v s = .refused .platformAddress := by
  simp [busWrite, h]

theorem busRead_busError {addr width : Nat} {s : State} (hin : inWindow s.params addr = true)
    (hacc : acceptedAccess s.params addr width = false) : busRead addr width s = .fault .busError := by
  simp [busRead, hin, hacc]

theorem busWrite_busError {addr width : Nat} {s : State} (v : Word) (hin : inWindow s.params addr = true)
    (hacc : acceptedAccess s.params addr width = false) : busWrite addr width v s = .fault .busError := by
  simp [busWrite, hin, hacc]

/-- Settles O37, by the place of the address: in the window the access is not the accepted one. -/
theorem otherAccessesStop : Obligations.OtherAccessesStop := by
  intro s addr width v
  refine ⟨fun hge hlt hkind => ?_, fun haddr => ?_⟩
  · have hin : inWindow s.params addr = true := (inWindow_iff _ _).2 ⟨hge, hlt⟩
    have hacc : acceptedAccess s.params addr width = false := by
      rw [← Bool.not_eq_true, acceptedAccess_iff]
      omega
    exact ⟨busRead_busError hin hacc, busWrite_busError v hin hacc⟩
  · have hout : inWindow s.params addr = false := by
      rw [← Bool.not_eq_true, inWindow_iff]
      omega
    exact ⟨busRead_outside hout, busWrite_outside v hout⟩

/-! The engine answers every command, every word and every write of the window (60_exceptions R325). -/

theorem exec_answers (i : Instr) (s : State) : ∃ t, exec i s = .next t := by
  by_cases h : s.ctl.seq = .busy i
  · exact ⟨_, exec_busy i s h⟩
  · exact ⟨_, exec_submit i s h⟩

theorem submitWord_answers (c : Word) (s : State) : ∃ t, submitWord c s = .next t := by
  obtain ⟨-, e⟩ | ⟨-, err, -, e⟩ | ⟨-, i, -, e⟩ := submitWord_cases c s
  · exact ⟨_, e⟩
  · exact ⟨_, e⟩
  · rw [e]
    exact exec_answers i s

theorem windowWrite_answers (off : Nat) (v : Word) (s : State) : ∃ t, windowWrite off v s = .next t := by
  obtain e | e | e | e | e | ⟨l, -, -, e⟩ := windowWrite_cases off v s
  · exact ⟨_, e⟩
  · exact ⟨_, e⟩
  · exact ⟨_, e⟩
  · rw [e]
    exact submitWord_answers v _
  · exact ⟨_, e⟩
  · exact ⟨_, e⟩

theorem sequencerStep_answers (s : State) : ∃ t, sequencerStep s = .next t := by
  cases hq : s.ctl.seq with
  | idle => exact ⟨_, sequencerStep_idle hq⟩
  | busy i =>
    rw [sequencerStep_busy hq]
    exact exec_answers i s
  | tblgenReset => exact ⟨_, sequencerStep_tblgenReset hq⟩

/-! An accepted statement answers, and so does whoever moves while the program is safe (20_memory R83). -/

theorem busRead_accepted {addr width : Nat} {s : State}
    (h : (inWindow s.params addr && acceptedAccess s.params addr width) = true) :
    busRead addr width s = .next (windowRead (addr - s.params.base) s) := by
  obtain ⟨hin, hacc⟩ := Bool.and_eq_true_iff.1 h
  simp [busRead, hin, hacc]

theorem busWrite_accepted {addr width : Nat} {s : State} (v : Word)
    (h : (inWindow s.params addr && acceptedAccess s.params addr width) = true) :
    busWrite addr width v s = windowWrite (addr - s.params.base) v s := by
  obtain ⟨hin, hacc⟩ := Bool.and_eq_true_iff.1 h
  simp [busWrite, hin, hacc]

theorem runStmt_answers {st : Stmt} {s : State} (h : st.accepted s.params = true) : ∃ t, runStmt st s = .next t := by
  cases st with
  | memWrite addr width v =>
    have hwrite : runStmt (.memWrite addr width v) s = windowWrite (addr - s.params.base) v s.advance :=
      busWrite_accepted v h
    rw [hwrite]
    exact windowWrite_answers _ v _
  | memRead addr width k =>
    have hread : busRead addr width s.advance = .next (windowRead (addr - s.params.base) s.advance) :=
      busRead_accepted h
    simp only [runStmt, hread]
    exact ⟨_, rfl⟩
  | jbit k b target =>
    simp only [runStmt]
    split
    · exact ⟨_, rfl⟩
    · exact ⟨_, rfl⟩
  | jmp target => exact ⟨_, rfl⟩
  | sumLimbs k parts => exact ⟨_, rfl⟩
  | check k v =>
    simp only [runStmt]
    split
    · exact ⟨_, rfl⟩
    · exact ⟨_, rfl⟩
  | halt => exact ⟨_, rfl⟩

theorem State.accepted_of_fetch {s : State} {st : Stmt} (h : s.safeProgram = true) (hfetch : s.fetch = some st) :
    st.accepted s.params = true :=
  List.all_eq_true.1 h st (List.mem_of_getElem? hfetch)

theorem turnStep_answers (a : Turn) {s : State} (h : s.safeProgram = true) : ∃ t, turnStep a s = .next t := by
  cases a with
  | host =>
    obtain ⟨st, -, hfetch, e⟩ | e := hostStep_cases s
    · rw [turnStep, e]
      exact runStmt_answers (State.accepted_of_fetch h hfetch)
    · exact ⟨s, e⟩
  | sequencer => exact sequencerStep_answers s
  | powerOnReset => exact ⟨_, rfl⟩

theorem step_answers {s : State} (h : s.safeProgram = true) : ∃ t, step s = .next t := by
  obtain ⟨-, e⟩ | ⟨a, rest, -, e⟩ := step_eq s
  · rw [e]
    exact turnStep_answers _ h
  · rw [e]
    exact turnStep_answers a h

/-- Settles O43: the step answers, and it keeps the program and the parameters that the predicate reads. -/
theorem acceptedProgramsNeverStop : Obligations.AcceptedProgramsNeverStop := by
  intro s h
  obtain ⟨t, hstep⟩ := step_answers h
  obtain ⟨hparams, hprogram⟩ := stepKeepsParameters s t hstep
  refine ⟨t, hstep, ?_⟩
  rw [State.safeProgram, hparams, hprogram]
  exact h

end Sys2Proof.Machine
end

section
/-! PROOFS. The decoder and the encoder of a command word (30_encoding R110-R120): a word is its three fields, a word decodes to the command of its opcode and immediate, and each row of the opcode map is its command's. -/

namespace Sys2Proof

/-! A word is RSV, IMM8 and OPC (30_encoding R110). -/

theorem word_eq_fields (c : Word) : rsvField c ++ immField c ++ opcField c = c := by
  have hhigh : rsvField c ++ immField c = c.extractLsb' 8 24 := BitVec.extractLsb'_append_extractLsb'_eq_extractLsb' rfl
  calc rsvField c ++ immField c ++ opcField c = c.extractLsb' 8 24 ++ c.extractLsb' 0 8 := by rw [hhigh, opcField]
    _ = c := BitVec.extractLsb'_append_extractLsb'

theorem word_eq_iff {c d : Word} :
    c = d ↔ opcField c = opcField d ∧ immField c = immField d ∧ rsvField c = rsvField d := by
  constructor
  · rintro rfl
    exact ⟨rfl, rfl, rfl⟩
  · rintro ⟨hopc, himm, hrsv⟩
    rw [← word_eq_fields c, ← word_eq_fields d, hopc, himm, hrsv]

@[simp] theorem opcField_and (c d : Word) : opcField (c &&& d) = opcField c &&& opcField d := BitVec.extractLsb'_and
@[simp] theorem immField_and (c d : Word) : immField (c &&& d) = immField c &&& immField d := BitVec.extractLsb'_and
@[simp] theorem rsvField_and (c d : Word) : rsvField (c &&& d) = rsvField c &&& rsvField d := BitVec.extractLsb'_and

/-! A command is its opcode and its immediate (30_encoding R112, R114, R120). -/

theorem Instr.wellFormed_iff (i : Instr) : i.WellFormed ↔ i.imm ≤ 255 := by
  cases i <;> simp [Instr.WellFormed, Instr.wellFormed, Instr.imm]

theorem Instr.takesImm_iff (i : Instr) : i.takesImm = true ↔ i.opcode = 0x30 ∨ i.opcode = 0x39 := by
  cases i <;> simp [Instr.takesImm, Instr.opcode]

theorem Instr.imm_of_takesImm_false {i : Instr} (h : i.takesImm = false) : i.imm = 0 := by
  cases i with
  | aesExpand kl => cases h
  | aesAddRoundKey round => cases h
  | _ => rfl

/-- A command's opcode selects a command with every immediate, and both have an immediate or neither has. -/
theorem Instr.exists_commandOf (i : Instr) (imm : Nat) :
    ∃ j : Instr, commandOf i.opcode imm = some j ∧ j.takesImm = i.takesImm := by
  cases i <;> exact ⟨_, rfl, rfl⟩

theorem commandOf_opcode {i : Instr} {imm : Nat} (h : i.takesImm = true → i.imm = imm) :
    commandOf i.opcode imm = some i := by
  cases i with
  | aesExpand kl => exact congrArg (fun n => some (Instr.aesExpand n)) (h rfl).symm
  | aesAddRoundKey round => exact congrArg (fun n => some (Instr.aesAddRoundKey n)) (h rfl).symm
  | _ => rfl

theorem commandOf_eq_some {opc : Byte} {imm : Nat} {i : Instr} (h : commandOf opc imm = some i) :
    i.opcode = opc ∧ (i.takesImm = true → i.imm = imm) := by
  unfold commandOf at h
  split at h
  all_goals cases h
  all_goals exact ⟨BitVec.eq_of_toNat_eq (Eq.symm ‹opc.toNat = _›), by simp [Instr.takesImm, Instr.imm]⟩

theorem Instr.immField_eq_zero {i : Instr} {c : Word} (himm : i.imm = (immField c).toNat) (h : i.takesImm = false) :
    immField c = 0 :=
  BitVec.eq_of_toNat_eq (himm.symm.trans (Instr.imm_of_takesImm_false h))

/-! The decoder's outcomes (30_encoding R117). -/

theorem decode_of_commandOf {c : Word} {i : Instr} (h : commandOf (opcField c) (immField c).toNat = some i) :
    decode c =
      if rsvField c ≠ 0 ∨ (i.takesImm = false ∧ immField c ≠ 0) then .error .reservedField else .ok i := by
  simp only [decode, h, ite_or]

theorem decode_illegalOpc {c : Word} (h : ∀ i : Instr, i.opcode ≠ opcField c) : decode c = .error .illegalOpc := by
  cases hcommand : commandOf (opcField c) (immField c).toNat with
  | none => simp only [decode, hcommand]
  | some i => exact absurd (commandOf_eq_some hcommand).1 (h i)

/-- A word decodes to the command of its opcode and immediate, and to nothing else. -/
theorem decode_eq_ok_iff {c : Word} {i : Instr} :
    decode c = .ok i ↔ i.opcode = opcField c ∧ i.imm = (immField c).toNat ∧ rsvField c = 0 := by
  constructor
  · intro h
    cases hcommand : commandOf (opcField c) (immField c).toNat with
    | none => simp [decode, hcommand] at h
    | some j =>
      obtain ⟨hopc, himm⟩ := commandOf_eq_some hcommand
      rw [decode_of_commandOf hcommand] at h
      split_ifs at h with hreserved
      cases h
      obtain ⟨hrsv, hzero⟩ := not_or.1 hreserved
      refine ⟨hopc, ?_, not_not.1 hrsv⟩
      cases htakes : i.takesImm with
      | true => exact himm htakes
      | false =>
        have himmField : immField c = 0 := not_not.1 fun hne => hzero ⟨htakes, hne⟩
        rw [Instr.imm_of_takesImm_false htakes, himmField]
        rfl
  · rintro ⟨hopc, himm, hrsv⟩
    have hcommand : commandOf (opcField c) (immField c).toNat = some i := hopc ▸ commandOf_opcode fun _ => himm
    rw [decode_of_commandOf hcommand, if_neg]
    rintro (hne | ⟨htakes, hne⟩)
    · exact hne hrsv
    · exact hne (Instr.immField_eq_zero himm htakes)

/-- With the opcode of a command the two checks of the reserved bits decide. -/
theorem decode_of_opcode {c : Word} {i : Instr} (h : i.opcode = opcField c) :
    ∃ j : Instr, decode c =
      if rsvField c ≠ 0 ∨ (i.takesImm = false ∧ immField c ≠ 0) then .error .reservedField else .ok j := by
  obtain ⟨j, hcommand, htakes⟩ := i.exists_commandOf (immField c).toNat
  rw [h] at hcommand
  exact ⟨j, htakes ▸ decode_of_commandOf hcommand⟩

theorem decode_reservedField {c : Word} {i : Instr} (hopc : i.opcode = opcField c)
    (h : rsvField c ≠ 0 ∨ (i.takesImm = false ∧ immField c ≠ 0)) : decode c = .error .reservedField := by
  obtain ⟨j, e⟩ := decode_of_opcode hopc
  rw [e, if_pos h]

theorem exists_decode_eq_ok {c : Word} {i : Instr} (hopc : i.opcode = opcField c) (hrsv : rsvField c = 0)
    (himm : i.takesImm = false → immField c = 0) :
    ∃ j : Instr, decode c = .ok j ∧ j.opcode = opcField c ∧ j.imm = (immField c).toNat := by
  obtain ⟨j, e⟩ := decode_of_opcode hopc
  have hclear : ¬(rsvField c ≠ 0 ∨ (i.takesImm = false ∧ immField c ≠ 0)) := by
    rintro (hne | ⟨htakes, hne⟩)
    · exact hne hrsv
    · exact hne (himm htakes)
  rw [if_neg hclear] at e
  obtain ⟨hj, hjimm, -⟩ := decode_eq_ok_iff.1 e
  exact ⟨j, e, hj, hjimm⟩

/-- Settles O1: the three fields of the encoded word name the command, as its immediate fits IMM8. -/
theorem encodedCommandDecodesBack : Obligations.EncodedCommandDecodesBack := by
  intro i hwf
  obtain ⟨hopc, himm, hrsv⟩ := Laws.EncodeFields.of_append (BitVec.ofNat 8 i.imm) i.opcode
  have hfits : i.imm < 2 ^ 8 := Nat.lt_succ_of_le (i.wellFormed_iff.1 hwf)
  refine decode_eq_ok_iff.2 ⟨hopc.symm, ?_, hrsv⟩
  rw [encode, himm, BitVec.toNat_ofNat, Nat.mod_eq_of_lt hfits]

/-- Settles O2: a word is its fields, and the command has them. -/
theorem decodedWordIsItsEncoding : Obligations.DecodedWordIsItsEncoding := by
  intro c i h
  refine ⟨?_, Machine.decode_wellFormed h⟩
  obtain ⟨hopc, himm, hrsv⟩ := decode_eq_ok_iff.1 h
  calc encode i = rsvField c ++ immField c ++ opcField c := by
        rw [encode, hopc, himm, hrsv, BitVec.ofNat_toNat, BitVec.setWidth_eq]
    _ = c := word_eq_fields c

/-! The opcode map (30_encoding R114): each row is a command's, and no two rows share a mnemonic or an opcode. -/

/-- The row of the opcode map that a command's mnemonic and opcode name; the mask leaves the immediate open. -/
def Instr.row (i : Instr) : OpcodeRow where
  mnemonic := i.mnemonic
  pattern := (0 : BitVec 16) ++ (0 : Byte) ++ i.opcode
  mask := if i.takesImm then 0xFFFF00FF else 0xFFFFFFFF

theorem Instr.row_mem (i : Instr) : i.row ∈ opcodeRows := by
  cases i <;> simp [opcodeRows, opcodeRowsPkeGf, opcodeRowsAesSha, Instr.row, Instr.mnemonic, Instr.opcode, Instr.takesImm]

theorem exists_row {r : OpcodeRow} (h : r ∈ opcodeRows) : ∃ i : Instr, i.row = r := by
  have hall : ∀ r ∈ opcodeRows, (commandOf (opcField r.pattern) 0).map Instr.row = some r := by decide +kernel
  obtain ⟨i, -, hrow⟩ := Option.map_eq_some_iff.1 (hall r h)
  exact ⟨i, hrow⟩

theorem Instr.row_eq_of_mnemonic_eq {i j : Instr} (h : i.mnemonic = j.mnemonic) : i.row = j.row :=
  have hnodup : (opcodeRows.map OpcodeRow.mnemonic).Nodup := by decide +kernel
  List.inj_on_of_nodup_map hnodup i.row_mem j.row_mem h

theorem Instr.mnemonic_eq_of_opcode_eq {i j : Instr} (h : i.opcode = j.opcode) : i.mnemonic = j.mnemonic :=
  have hnodup : (opcodeRows.map OpcodeRow.pattern).Nodup := by decide +kernel
  have hpattern : i.row.pattern = j.row.pattern := by simp only [Instr.row, h]
  congrArg OpcodeRow.mnemonic (List.inj_on_of_nodup_map hnodup i.row_mem j.row_mem hpattern)

theorem Instr.row_mask_fields (i : Instr) :
    opcField i.row.mask = BitVec.allOnes 8 ∧
      immField i.row.mask = (if i.takesImm then 0 else BitVec.allOnes 8) ∧ rsvField i.row.mask = BitVec.allOnes 16 := by
  have hmask : i.row.mask = if i.takesImm then 0xFFFF00FF else 0xFFFFFFFF := rfl
  rw [hmask]
  cases i.takesImm with
  | true => decide
  | false => decide

theorem Instr.row_selects_iff (i : Instr) (c : Word) :
    i.row.selects c = true ↔
      i.opcode = opcField c ∧ rsvField c = 0 ∧ (i.takesImm = false → immField c = 0) := by
  obtain ⟨hopc, himm, hrsv⟩ := Laws.EncodeFields.of_append 0 i.opcode
  obtain ⟨hopcMask, himmMask, hrsvMask⟩ := i.row_mask_fields
  have hpattern : i.row.pattern = (0 : BitVec 16) ++ (0 : Byte) ++ i.opcode := rfl
  rw [OpcodeRow.selects, beq_iff_eq, word_eq_iff, opcField_and, immField_and, rsvField_and, hopcMask, himmMask, hrsvMask,
    hpattern, hopc, himm, hrsv, BitVec.and_allOnes, BitVec.and_allOnes, eq_comm (a := opcField c)]
  cases i.takesImm with
  | true => simp
  | false => simp [-BitVec.reduceAllOnes, and_comm]

/-- The opcodes of the map's rows. -/
def opcodeColumn : List Byte := opcodeRows.map fun r => opcField r.pattern

theorem mem_opcodeColumn {opc : Byte} : opc ∈ opcodeColumn ↔ ∃ i : Instr, i.opcode = opc := by
  have hpattern (i : Instr) : opcField i.row.pattern = i.opcode := (Laws.EncodeFields.of_append 0 i.opcode).1
  constructor
  · intro h
    obtain ⟨r, hr, rfl⟩ := List.mem_map.1 h
    obtain ⟨i, rfl⟩ := exists_row hr
    exact ⟨i, (hpattern i).symm⟩
  · rintro ⟨i, rfl⟩
    exact List.mem_map.2 ⟨i.row, i.row_mem, hpattern i⟩

/-- Settles O3: the opcodes written out are the map's column, and each clause is an outcome of the decoder. -/
theorem decoderOutcomes : Obligations.DecoderOutcomes := by
  intro c opcodes opc imm rsv
  refine ⟨fun h => ?_, fun h hrsv => ?_, fun h hrsv hexpand hround himm => ?_, fun h hrsv himm => ?_⟩
  · exact decode_illegalOpc fun i hi => h (mem_opcodeColumn.2 ⟨i, hi⟩)
  · obtain ⟨i, hopc⟩ := mem_opcodeColumn.1 h
    exact decode_reservedField hopc (.inl hrsv)
  · obtain ⟨i, hopc⟩ := mem_opcodeColumn.1 h
    have htakes : i.takesImm ≠ true := by
      rw [ne_eq, i.takesImm_iff, hopc]
      exact not_or.2 ⟨hexpand, hround⟩
    exact decode_reservedField hopc (.inr ⟨Bool.eq_false_of_not_eq_true htakes, himm⟩)
  · obtain ⟨i, hopc⟩ := mem_opcodeColumn.1 h
    refine exists_decode_eq_ok hopc hrsv fun htakes => ?_
    have hnone : ¬(opc = 0x30 ∨ opc = 0x39) := by rw [← hopc, ← i.takesImm_iff, htakes]; decide
    exact (or_assoc.2 himm).resolve_left hnone

/-- Settles O4: the row is a command's, and both sides say that the word's fields are that command's. -/
theorem opcodeMapSelectsCommands : Obligations.OpcodeMapSelectsCommands := by
  intro r c hr
  obtain ⟨i, rfl⟩ := exists_row hr
  constructor
  · intro hselects
    obtain ⟨hopc, hrsv, himm⟩ := (i.row_selects_iff c).1 hselects
    obtain ⟨j, hdecode, hj, -⟩ := exists_decode_eq_ok hopc hrsv himm
    exact ⟨j, hdecode, Instr.mnemonic_eq_of_opcode_eq (hj.trans hopc.symm)⟩
  · rintro ⟨j, hdecode, hmnemonic⟩
    obtain ⟨hopc, himm, hrsv⟩ := decode_eq_ok_iff.1 hdecode
    rw [← Instr.row_eq_of_mnemonic_eq hmnemonic, j.row_selects_iff]
    exact ⟨hopc, hrsv, Instr.immField_eq_zero himm⟩

/-- Settles O5: the words are the commands' encodings, or fail the check that the spec names. -/
theorem specWordsDecode : Obligations.SpecWordsDecode :=
  have h := encodedCommandDecodesBack
  ⟨h .nop rfl, h .rsaCrypt rfl, h .tblGen rfl, h (.aesExpand 2) rfl, h (.aesAddRoundKey 10) rfl, h .shaCompress rfl,
    rfl, rfl, rfl⟩

end Sys2Proof
end

section
/-! PROOFS. The host's statements (30_encoding R121-R125): where each leaves the pc and the run, and what a read binds. -/

namespace Sys2Proof.Machine

theorem runStmt_jbit (x k : Nat) (target : Target) (s : State) :
    runStmt (.jbit x k target) s =
      .next (if (varsGet s.host.vars x).testBit k then s.goto target else s.advance) :=
  (apply_ite _ _ _ _).symm

theorem runStmt_check (x v : Nat) (s : State) :
    runStmt (.check x v) s = .next (if varsGet s.host.vars x = v then s.advance else s.endRun .failed) :=
  (apply_ite _ _ _ _).symm

theorem runStmt_memRead_of_next {addr width : Nat} {k : Option Nat} {w : Word} {s s' : State}
    (h : busRead addr width s.advance = .next (w, s')) : runStmt (.memRead addr width k) s = .next (s'.bind k w.toNat) := by
  simp only [runStmt, h]

/-- A read statement that answers has read a word, and the host has moved past it and changes nothing but its variables. -/
theorem runStmt_memRead_host {addr width : Nat} {k : Option Nat} {s t : State}
    (h : runStmt (.memRead addr width k) s = .next t) :
    ∃ w : Word, t.host = { s.advance.host with vars := (s.advance.bind k w.toNat).host.vars } := by
  cases hread : busRead addr width s.advance with
  | next r =>
    have hhost : r.2.host = s.advance.host := (busRead_engineMove hread).host
    cases (runStmt_memRead_of_next hread).symm.trans h
    refine ⟨r.1, ?_⟩
    cases k <;> simp [hhost]
  | fault f => simp [runStmt, hread] at h
  | refused e => simp [runStmt, hread] at h

/-- Settles O52, by the kind of the statement. -/
theorem hostProgramCounter : Obligations.HostProgramCounter := by
  refine ⟨rfl, fun s st hrun hfetch => ?_⟩
  have hstep := hostStep_running hrun hfetch
  cases st with
  | memWrite addr width v => exact fun t h => (busWrite_engineMove (hstep.symm.trans h)).host
  | memRead addr width x =>
    intro t h
    obtain ⟨w, hhost⟩ := runStmt_memRead_host (hstep.symm.trans h)
    rw [hhost]
    refine ⟨rfl, hrun, rfl, ?_⟩
    rintro rfl
    rfl
  | jbit x k target => cases target <;> exact hstep.trans (runStmt_jbit x k _ s)
  | jmp target => cases target <;> exact hstep
  | sumLimbs x parts => exact hstep
  | check x v => exact hstep.trans (runStmt_check x v s)
  | halt => exact hstep

/-! A read before the pc moves is the read after it. -/

theorem readReg_advance (l : Loc) (s : State) : s.advance.readReg l = s.readReg l := by
  cases l <;> rfl

theorem windowRead_advance (off : Nat) (s : State) :
    windowRead off s.advance = ((windowRead off s).1, (windowRead off s).2.advance) := by
  cases hloc : locAt s.params.maxLimbs off with
  | none =>
    have hadvance : locAt s.advance.params.maxLimbs off = none := hloc
    rw [windowRead_reserved hloc, windowRead_reserved hadvance]
  | some l =>
    have hadvance : locAt s.advance.params.maxLimbs off = some l := hloc
    by_cases hstatus : l = .status
    · subst hstatus
      rw [windowRead_status hloc, windowRead_status hadvance]
      rfl
    · rw [windowRead_of_ne_status hloc hstatus, windowRead_of_ne_status hadvance hstatus, readReg_advance,
        State.advance_ctl]
      split
      · rfl
      · rfl

theorem busRead_advance {addr width : Nat} {w : Word} {s s' : State} (h : busRead addr width s = .next (w, s')) :
    busRead addr width s.advance = .next (w, s'.advance) := by
  obtain ⟨-, e⟩ | ⟨-, -, e⟩ | ⟨hin, hacc, e⟩ := busRead_cases addr width s
  · cases e.symm.trans h
  · cases e.symm.trans h
  · have hread : windowRead (addr - s.params.base) s = (w, s') := Host.Outcome.next.inj (e.symm.trans h)
    calc busRead addr width s.advance = .next (windowRead (addr - s.params.base) s.advance) :=
          busRead_accepted (Bool.and_eq_true_iff.2 ⟨hin, hacc⟩)
      _ = .next (w, s'.advance) := by rw [windowRead_advance, hread]

/-- Settles O53: the read is the bus's, after which the word is bound. -/
theorem hostReadBindsItsVariable : Obligations.HostReadBindsItsVariable := by
  intro s off x w s' hwf hrun hfetch hread
  have hhost : s'.host = s.host := (busRead_engineMove hread).host
  have hstep : hostStep s = .next (s'.advance.bind (some x) w.toNat) :=
    (hostStep_running hrun hfetch).trans (runStmt_memRead_of_next (busRead_advance hread))
  have hvars : (s'.advance.bind (some x) w.toNat).host.vars = varsSet s.host.vars x w.toNat := by simp [hhost]
  refine ⟨_, hstep, ?_, fun y hne => ?_, ?_⟩
  · rw [hvars, varsGet_varsSet_self _ _ _ hwf]
  · rw [hvars, varsGet_varsSet_ne _ _ _ _ hne]
  · simp [hhost]

end Sys2Proof.Machine
end

section
/-! PROOFS. Submissions to an idle sequencer: each command's checks in the order of 60_exceptions R324, and acceptance. -/

namespace Sys2Proof.Machine

/-! A submission to an idle sequencer is decided by the command's checks (60_exceptions R323). -/

theorem exec_rejects {i : Instr} {s : State} {code : ErrCode} (hidle : s.ctl.seq = .idle)
    (h : commandChecks i s = some code) : exec i s = .next (s.reject i.opcode code) := by
  rw [exec_submit i s (by simp [hidle]), h, State.submit_idle_some i code s hidle]

theorem exec_accepts {i : Instr} {s : State} (hidle : s.ctl.seq = .idle) (h : commandChecks i s = none) :
    exec i s = .next (s.accept i) := by
  rw [exec_submit i s (by simp [hidle]), h, State.submit_idle_none i s hidle]

/-! The checks of the PKE commands (40_pke R141, R144, R146, R147, R150). -/

theorem State.badLen_iff (s : State) : s.badLen = true ↔ s.limbs = 0 ∨ s.params.maxLimbs < s.limbs := by
  simp [State.badLen]

theorem commandChecks_of_badLen {i : Instr} {s : State} (hi : i ∈ [Instr.modexp, .rsaCrypt, .modmul, .montmul])
    (hlen : s.badLen = true) : commandChecks i s = some .pkeBadLen := by
  simp only [List.mem_cons, List.not_mem_nil, or_false] at hi
  obtain rfl | rfl | rfl | rfl := hi
  · exact if_pos hlen
  · exact if_pos hlen
  · exact if_pos hlen
  · exact if_pos hlen

section
variable {s : State} (hlen : s.badLen = false)
include hlen

theorem modulusChecks_of_zero (hn : s.opN = 0) : modulusChecks s = some .pkeZeroModulus := by
  simp [modulusChecks, hlen, hn]

theorem modulusChecks_eq_none (hn : s.opN ≠ 0) : modulusChecks s = none := by
  simp [modulusChecks, hlen, hn]

theorem rsaChecks_of_zero (hn : s.opN = 0) : rsaChecks s = some .pkeZeroModulus := by
  simp [rsaChecks, hlen, hn]

theorem rsaChecks_of_le (hn : s.opN ≠ 0) (ha : s.opN ≤ s.opA) : rsaChecks s = some .pkeMsgTooLarge := by
  simp [rsaChecks, hlen, hn, ha]

theorem rsaChecks_eq_none (ha : s.opA < s.opN) : rsaChecks s = none := by
  have hn : s.opN ≠ 0 := Nat.ne_zero_of_lt ha
  simp [rsaChecks, hlen, hn, ha]

theorem montChecks_of_even (hn : s.opN % 2 = 0) : montChecks s = some .pkeEvenModulus := by
  simp [montChecks, hlen, hn]

theorem montChecks_of_le (hn : s.opN % 2 = 1) (h : s.opN ≤ s.opA ∨ s.opN ≤ s.opB) :
    montChecks s = some .pkeOperandRange := by
  simp [montChecks, hlen, hn, h]

theorem montChecks_eq_none (hn : s.opN % 2 = 1) (ha : s.opA < s.opN) (hb : s.opB < s.opN) : montChecks s = none := by
  simp [montChecks, hlen, hn, ha, hb]

end

/-! The checks of the AES commands (42_aes R213-R215, R222). -/

theorem keylenCheck_of_lt {kl : Nat} (s : State) (h : 2 < kl) : keylenCheck kl s = some .aesBadKeylen := if_pos h

theorem keylenCheck_eq_none {kl : Nat} (s : State) (h : kl ≤ 2) : keylenCheck kl s = none := if_neg (by omega)

theorem keyCheck_of_invalid {s : State} (h : s.aes.keyValid = false) : keyCheck s = some .aesNoKey := by
  simp [keyCheck, h]

theorem keyCheck_eq_none {s : State} (h : s.aes.keyValid = true) : keyCheck s = none := if_pos h

theorem roundChecks_of_invalid {s : State} (round : Nat) (h : s.aes.keyValid = false) :
    roundChecks round s = some .aesNoKey := if_pos h

theorem roundChecks_of_lt {s : State} {round : Nat} (h : s.aes.keyValid = true) (hround : s.aes.nr.toNat < round) :
    roundChecks round s = some .aesBadRound := by
  simp [roundChecks, h, hround]

theorem roundChecks_eq_none {s : State} {round : Nat} (h : s.aes.keyValid = true) (hround : round ≤ s.aes.nr.toNat) :
    roundChecks round s = none := by
  simp [roundChecks, h, hround]

/-! The commands without checks (60_exceptions R324). -/

theorem commandChecks_unchecked {i : Instr} (s : State)
    (hi : i ∈ [Instr.nop, .gfadd, .gfmul, .gfinv, .tblGen, .aesSubBytes, .aesInvSubBytes, .aesShiftRows,
      .aesInvShiftRows, .aesMixColumns, .aesInvMixColumns, .shaInit, .shaCompress, .shaSchedule]) :
    commandChecks i s = none := by
  cases i with
  | nop | gfadd | gfmul | gfinv | tblGen | aesSubBytes | aesInvSubBytes | aesShiftRows | aesInvShiftRows
  | aesMixColumns | aesInvMixColumns | shaInit | shaCompress | shaSchedule => rfl
  | modexp | rsaCrypt | modmul | montmul | aesExpand _ | aesEnc | aesDec | aesAddRoundKey _ => simp at hi

/-- Settles O9: each clause is the value of one command's checks, by which an idle sequencer rejects or accepts. -/
theorem submissionChecksInOrder : Obligations.SubmissionChecksInOrder := by
  intro s hidle badLen
  have hgood : ¬badLen → s.badLen = false := fun h => Bool.eq_false_iff.2 (mt s.badLen_iff.1 h)
  refine ⟨fun hbad i hi => ?badLen, fun hlen hn i hi => ?zeroModulus, fun hlen hn i hi => ?modulus,
    fun hlen hn ha => ?msgTooLarge, fun hlen ha => ?rsa, fun hlen hn => ?evenModulus, fun hlen hn h => ?operandRange,
    fun hlen hn ha hb => ?mont, fun kl hkl => ?badKeylen, fun kl hkl => ?expand, fun hkey => ?noKey,
    fun hkey => ?keyed, fun i hi => ?unchecked⟩
  case badLen => exact exec_rejects hidle (commandChecks_of_badLen hi (s.badLen_iff.2 hbad))
  case zeroModulus =>
    simp only [List.mem_cons, List.not_mem_nil, or_false] at hi
    obtain rfl | rfl | rfl := hi
    · exact exec_rejects hidle (modulusChecks_of_zero (hgood hlen) hn)
    · exact exec_rejects hidle (rsaChecks_of_zero (hgood hlen) hn)
    · exact exec_rejects hidle (modulusChecks_of_zero (hgood hlen) hn)
  case modulus =>
    simp only [List.mem_cons, List.not_mem_nil, or_false] at hi
    obtain rfl | rfl := hi
    · exact exec_accepts hidle (modulusChecks_eq_none (hgood hlen) hn)
    · exact exec_accepts hidle (modulusChecks_eq_none (hgood hlen) hn)
  case msgTooLarge => exact exec_rejects hidle (rsaChecks_of_le (hgood hlen) hn ha)
  case rsa => exact exec_accepts hidle (rsaChecks_eq_none (hgood hlen) ha)
  case evenModulus => exact exec_rejects hidle (montChecks_of_even (hgood hlen) hn)
  case operandRange => exact exec_rejects hidle (montChecks_of_le (hgood hlen) hn h)
  case mont => exact exec_accepts hidle (montChecks_eq_none (hgood hlen) hn ha hb)
  case badKeylen => exact exec_rejects hidle (keylenCheck_of_lt s hkl)
  case expand => exact exec_accepts hidle (keylenCheck_eq_none s hkl)
  case noKey =>
    exact ⟨exec_rejects hidle (keyCheck_of_invalid hkey), exec_rejects hidle (keyCheck_of_invalid hkey),
      fun round => exec_rejects hidle (roundChecks_of_invalid round hkey)⟩
  case keyed =>
    exact ⟨exec_accepts hidle (keyCheck_eq_none hkey), exec_accepts hidle (keyCheck_eq_none hkey),
      fun _ hround => exec_rejects hidle (roundChecks_of_lt hkey hround),
      fun _ hround => exec_accepts hidle (roundChecks_eq_none hkey hround)⟩
  case unchecked => exact exec_accepts hidle (commandChecks_unchecked s hi)

end Sys2Proof.Machine
end

section
/-! PROOFS. The integers of limb arrays, the result a PKE command writes (40_pke R142), the Montgomery identities (R151) and the RSA round trip (R149). -/

namespace Sys2Proof.Machine

/-! Limbs and integers (00_scope R13). -/

theorem two_pow_limbs_succ (L : Nat) : 2 ^ (32 * (L + 1)) = 2 ^ 32 * 2 ^ (32 * L) := by
  rw [mul_add, pow_add, mul_comm]

theorem limbsVal_lt (ws : List Word) : limbsVal ws < 2 ^ (32 * ws.length) := by
  induction ws with
  | nil => simp [limbsVal]
  | cons w ws ih =>
    have hw : w.toNat < 2 ^ 32 := w.isLt
    rw [limbsVal, List.length_cons, two_pow_limbs_succ]
    omega

theorem valL_lt (L : Nat) (x : Bank 256) : valL L x < 2 ^ (32 * L) :=
  calc valL L x < 2 ^ (32 * (x.words.take L).length) := limbsVal_lt _
    _ ≤ 2 ^ (32 * L) := Nat.pow_le_pow_right (by omega) (Nat.mul_le_mul_left 32 (List.length_take_le L _))

theorem limbsVal_limbs (L v : Nat) :
    limbsVal ((List.range L).map fun i => BitVec.ofNat 32 (v / 2 ^ (32 * i))) = v % 2 ^ (32 * L) := by
  induction L generalizing v with
  | zero => simp [limbsVal, Nat.mod_one]
  | succ L ih =>
    have hshift (i : Nat) : v / 2 ^ (32 * (i + 1)) = v / 2 ^ 32 / 2 ^ (32 * i) := by
      rw [Nat.div_div_eq_div_mul, ← pow_add, mul_add, mul_one, add_comm]
    rw [List.range_succ_eq_map, List.map_cons, List.map_map, limbsVal, two_pow_limbs_succ, Nat.mod_mul,
      ← ih (v / 2 ^ 32)]
    simp [Function.comp_def, hshift]

theorem take_limbsOf {L : Nat} (v : Nat) (hL : L ≤ 256) :
    (limbsOf L v).words.take L = (List.range L).map fun i => BitVec.ofNat 32 (v / 2 ^ (32 * i)) := by
  refine List.ext_getElem (by simpa [(limbsOf L v).length_eq] using hL) fun k hk hk' => ?_
  have hlt : k < L := by simpa using hk'
  calc ((limbsOf L v).words.take L)[k] = (limbsOf L v).get ⟨k, by omega⟩ := by
        rw [List.getElem_take, Bank.get_eq_getElem]
    _ = BitVec.ofNat 32 (v / 2 ^ (32 * k)) := (Bank.get_ofFn _ _).trans (if_pos hlt)
    _ = ((List.range L).map fun i => BitVec.ofNat 32 (v / 2 ^ (32 * i)))[k] := by simp

/-- The limbs of a number that fits in `L` of them read back as the number (40_pke R142). -/
theorem valL_limbsOf {L v : Nat} (hL : L ≤ 256) (hv : v < 2 ^ (32 * L)) : valL L (limbsOf L v) = v := by
  rw [valL, take_limbsOf v hL, limbsVal_limbs, Nat.mod_eq_of_lt hv]

/-! Every PKE command writes a result below n (40_pke R142). -/

theorem commandEffect_writes_result {i : Instr} {s : State}
    (hi : i ∈ [Instr.modexp, .rsaCrypt, .modmul, .montmul]) (hn : 0 < s.opN) :
    ∃ r < s.opN, commandEffect i s = s.writeResult r := by
  have hpow : modexpRef s.opA s.opE s.opN < s.opN := by
    rw [modexpRef_eq_pow_mod]
    exact Nat.mod_lt _ hn
  simp only [List.mem_cons, List.not_mem_nil, or_false] at hi
  obtain rfl | rfl | rfl | rfl := hi
  · exact ⟨_, hpow, rfl⟩
  · exact ⟨_, hpow, rfl⟩
  · exact ⟨_, Nat.mod_lt _ hn, rfl⟩
  · exact ⟨_, Nat.mod_lt _ hn, rfl⟩

/-- Settles O17: the completion writes the limbs of a result below n, which therefore fits in L limbs. -/
theorem pkeResultLimbs : Obligations.PkeResultLimbs := by
  intro i s hi hbusy _ hL hn
  obtain ⟨r, hr, heffect⟩ := commandEffect_writes_result hi hn
  have hfits : r < 2 ^ (32 * s.limbs) := hr.trans (valL_lt _ _)
  have hexec := exec_completes hbusy
  rw [heffect] at hexec
  refine ⟨r, _, hexec, hr, hfits, fun k hk => ?_, emptyAbove_limbsOf r (Nat.le_refl _), valL_limbsOf hL hfits, rfl⟩
  exact (Bank.get_ofFn _ k).trans (if_pos hk)

/-! Modular powers and Montgomery products (40_pke R145, R151). -/

/-- Settles O47: the loop over all bits of `e` from 1 is the power. -/
theorem referenceAlgorithmIsPower : Obligations.ReferenceAlgorithmIsPower := fun a e n _ => modexpRef_eq_pow_mod a e n

/-- The Montgomery product is what its congruence determines, since RADIX cancels. -/
theorem montProduct_eq_mod {L n a b c : Nat} (hodd : n % 2 = 1) (h : c * radix L ≡ a * b [MOD n]) :
    montProduct L n a b = c % n := by
  refine eq_of_mul_radix_modEq (L := L) hodd (montProduct_lt L n a b hodd) (Nat.mod_lt c (by omega)) ?_
  calc montProduct L n a b * radix L ≡ a * b [MOD n] := montProduct_mul_radix L n a b hodd
    _ ≡ c * radix L [MOD n] := h.symm
    _ ≡ c % n * radix L [MOD n] := (Nat.mod_modEq c n).symm.mul_right _

/-- The product with RADIX squared brings a number into the Montgomery form. -/
theorem montProduct_radix_sq (L n x : Nat) (hodd : n % 2 = 1) :
    montProduct L n x (modexpRef 2 (64 * L) n) = x * radix L % n := by
  have hsq : radix L * radix L = 2 ^ (64 * L) := by rw [radix, ← pow_add, ← add_mul]
  apply montProduct_eq_mod hodd
  calc x * radix L * radix L = x * 2 ^ (64 * L) := by rw [mul_assoc, hsq]
    _ ≡ x * modexpRef 2 (64 * L) n [MOD n] := by
      rw [modexpRef_eq_pow_mod]
      exact (Nat.mod_modEq _ n).symm.mul_left x

/-- Settles O48: each product is the number whose product with RADIX is that of its factors. -/
theorem montgomeryIdentities : Obligations.MontgomeryIdentities := by
  intro L n x y z hodd _ _ hz rr mont
  have hform (v : Nat) : mont v rr = v * radix L % n := montProduct_radix_sq L n v hodd
  refine ⟨hform x, ?formProduct, ?back, ?product⟩
  case formProduct =>
    rw [hform x, hform y]
    apply montProduct_eq_mod hodd
    calc x * y * radix L * radix L = (x * radix L) * (y * radix L) := by ring
      _ ≡ (x * radix L % n) * (y * radix L % n) [MOD n] :=
        ((Nat.mod_modEq _ n).mul (Nat.mod_modEq _ n)).symm
  case back =>
    have hone : mont z 1 * radix L ≡ z [MOD n] := by simpa using montProduct_mul_radix L n z 1 hodd
    exact Nat.mod_eq_of_modEq hone hz
  case product =>
    rw [hform x]
    apply montProduct_eq_mod hodd
    calc x * y * radix L = (x * radix L) * y := by ring
      _ ≡ (x * radix L % n) * y [MOD n] := (Nat.mod_modEq _ n).symm.mul_right y

/-! RSA (40_pke R149). -/

/-- Fermat's little theorem for an exponent that is 1 modulo p - 1, whether or not p divides the base. -/
theorem pow_modEq_self_of_prime {p k : Nat} (m : Nat) (hp : p.Prime) (hk : 0 < k) (h : k ≡ 1 [MOD p - 1]) :
    m ^ k ≡ m [MOD p] := by
  by_cases hdvd : p ∣ m
  · exact ((dvd_pow hdvd hk.ne').modEq_zero_nat).trans hdvd.modEq_zero_nat.symm
  · obtain ⟨c, hc⟩ := (Nat.modEq_iff_dvd' hk).1 h.symm
    have hcoprime : m.Coprime p := ((Nat.Prime.coprime_iff_not_dvd hp).2 hdvd).symm
    have hexp : k = (p - 1) * c + 1 := by omega
    calc m ^ k = (m ^ (p - 1)) ^ c * m := by rw [hexp, pow_succ, pow_mul]
      _ ≡ 1 ^ c * m [MOD p] := ((Nat.ModEq.pow_card_sub_one_eq_one hp hcoprime).pow c).mul_right m
      _ = m := by rw [one_pow, one_mul]

theorem rsa_pow_pow_mod {p q e d m : Nat} (hp : p.Prime) (hq : q.Prime) (hne : p ≠ q)
    (hed : e * d ≡ 1 [MOD Nat.lcm (p - 1) (q - 1)]) (hm : m < p * q) : (m ^ e % (p * q)) ^ d % (p * q) = m := by
  have hpos : 0 < e * d := by
    by_contra hzero
    have hlcm : Nat.lcm (p - 1) (q - 1) ∣ 1 := by
      rw [Nat.eq_zero_of_not_pos hzero] at hed
      exact Nat.modEq_zero_iff_dvd.1 hed.symm
    have hp1 : p - 1 = 1 := Nat.dvd_one.1 ((Nat.dvd_lcm_left _ _).trans hlcm)
    have hq1 : q - 1 = 1 := Nat.dvd_one.1 ((Nat.dvd_lcm_right _ _).trans hlcm)
    omega
  have hmodp := pow_modEq_self_of_prime m hp hpos (hed.of_dvd (Nat.dvd_lcm_left _ _))
  have hmodq := pow_modEq_self_of_prime m hq hpos (hed.of_dvd (Nat.dvd_lcm_right _ _))
  have hmod : m ^ (e * d) ≡ m [MOD p * q] :=
    (Nat.modEq_and_modEq_iff_modEq_mul ((Nat.coprime_primes hp hq).2 hne)).1 ⟨hmodp, hmodq⟩
  rw [← Nat.pow_mod, ← pow_mul]
  exact Nat.mod_eq_of_modEq hmod hm

/-- RSA_CRYPT performed with a legal limb count and a message below n leaves the power in PKE_R (40_pke R146). -/
theorem perform_rsaCrypt {s : State} (hlegal : s.params.Legal) (hidle : s.ctl.seq = .idle) (hpos : 1 ≤ s.limbs)
    (hle : s.limbs ≤ s.params.maxLimbs) (ha : s.opA < s.opN) :
    ∃ t, perform .rsaCrypt s = .next t ∧ valL s.limbs t.pke.r = s.opA ^ s.opE % s.opN := by
  have hlen : s.badLen = false := by
    rw [Bool.eq_false_iff, ne_eq, State.badLen_iff]
    omega
  have haccept : exec .rsaCrypt s = .next (s.accept .rsaCrypt) := exec_accepts hidle (rsaChecks_eq_none hlen ha)
  have hperform : perform .rsaCrypt s = exec .rsaCrypt (s.accept .rsaCrypt) := by
    rw [perform, haccept]
    exact if_pos rfl
  obtain ⟨-, hmax, -⟩ := hlegal
  have hfits : s.opA ^ s.opE % s.opN < 2 ^ (32 * s.limbs) := (Nat.mod_lt _ (by omega)).trans (valL_lt _ _)
  have hcomplete := exponentiationsComplete .rsaCrypt (s.accept .rsaCrypt) (.inr rfl) rfl
  exact ⟨_, hperform.trans hcomplete, valL_limbsOf (hle.trans hmax) hfits⟩

/-- Settles O49: both commands are accepted, and the power of the power is the message modulo p and modulo q. -/
theorem rsaRoundTrip : Obligations.RsaRoundTrip := by
  rintro p q e d m s hp hq hne hed hlegal hidle hpos hle hn rfl rfl hm
  obtain ⟨t, ht, hc⟩ := perform_rsaCrypt hlegal hidle hpos hle (hn ▸ hm)
  refine ⟨t, ht, fun u hlegalU hidleU hlimbs hleU hnU hd hcU => ?_⟩
  subst hd
  rw [hc, hn] at hcU
  have hlt : u.opA < u.opN := by
    rw [hcU, hnU]
    exact Nat.mod_lt _ (Nat.mul_pos hp.pos hq.pos)
  obtain ⟨v, hv, hr⟩ := perform_rsaCrypt hlegalU hidleU (hlimbs ▸ hpos) hleU hlt
  refine ⟨v, hv, ?_⟩
  calc valL u.limbs v.pke.r = (s.opA ^ s.opE % (p * q)) ^ u.opE % (p * q) := by rw [hr, hcU, hnU]
    _ = s.opA := rsa_pow_pow_mod hp hq hne hed hm

end Sys2Proof.Machine
end

section
/-! PROOFS. The field laws of GF(2^8) and the S-box (41_gf R176, R177, R184-R186). -/

namespace Sys2Proof

/-- Multiplication is additive in its first factor too, since xtime and so its iterates are. -/
theorem xor_gfmul (a b c : Byte) : gfmul (a ^^^ b) c = gfmul a c ^^^ gfmul b c := by
  induction c using byte_xor_induction with
  | hbit i hi =>
    have hadd : Function.Semiconj₂ xtime (· ^^^ ·) (· ^^^ ·) := xtime_xor
    simpa only [gfmul_bit _ i hi] using hadd.iterate i a b
  | hxor x y hx hy =>
    calc gfmul (a ^^^ b) (x ^^^ y)
      _ = (gfmul a x ^^^ gfmul b x) ^^^ (gfmul a y ^^^ gfmul b y) := by rw [gfmul_xor, hx, hy]
      _ = (gfmul a x ^^^ gfmul a y) ^^^ (gfmul b x ^^^ gfmul b y) := by ac_rfl
      _ = gfmul a (x ^^^ y) ^^^ gfmul b (x ^^^ y) := by rw [gfmul_xor, gfmul_xor]

/-- The power x^i is 1 under i times xtime (41_gf R171). -/
theorem bit_eq_iterate_xtime {i : Nat} (hi : i < 8) : 1#8 <<< i = xtime^[i] 1#8 := by
  rw [← gfmul_bit 1#8 i hi, one_gfmul]

theorem gfmul_bit_comm {i j : Nat} (hi : i < 8) (hj : j < 8) :
    gfmul (1#8 <<< i) (1#8 <<< j) = gfmul (1#8 <<< j) (1#8 <<< i) := by
  rw [gfmul_bit _ j hj, gfmul_bit _ i hi, bit_eq_iterate_xtime hi, bit_eq_iterate_xtime hj]
  exact Function.Commute.iterate_iterate_self xtime j i 1#8

/-- Both factors are sums of powers of x, and the powers of x commute. -/
theorem gfmul_comm (a b : Byte) : gfmul a b = gfmul b a := by
  induction a using byte_xor_induction with
  | hbit i hi =>
    induction b using byte_xor_induction with
    | hbit j hj => exact gfmul_bit_comm hi hj
    | hxor x y hx hy => rw [gfmul_xor, xor_gfmul, hx, hy]
  | hxor x y hx hy => rw [xor_gfmul, gfmul_xor, hx, hy]

end Sys2Proof

namespace Sys2Proof.Machine

/-- Settles O45: multiplication is additive in each factor, so it commutes because the powers of x do. -/
theorem fieldLaws : Obligations.FieldLaws :=
  ⟨gfmul_comm, gfmul_xor, fun _ ha => gfmul_gfinv ha⟩

/-- Settles O46: the computed S-box is the listed one, and the two listed tables invert each other. -/
theorem sboxIsListedAndInverted : Obligations.SboxIsListedAndInverted :=
  fun x => ⟨sbox_eq_sboxListed x, invSbox_sbox x, sbox_invSbox x⟩

end Sys2Proof.Machine
end

section
/-! PROOFS. The AES ciphers invert each other, and the single-transform commands in sequence are the ciphers (42_aes R223, R225). -/

namespace Sys2Proof

theorem zero_gfmul (a : Byte) : gfmul 0#8 a = 0#8 := by
  simpa using xor_gfmul a a a

end Sys2Proof

namespace Sys2Proof.Machine

/-! The cipher state by its bytes, and the transforms' inverses (42_aes R200, R204-R210). -/

theorem stateByte_stateOf (f : Fin 4 → Fin 4 → Byte) (r c : Fin 4) : stateByte (stateOf f) r c = f r c :=
  lane_stateOf f r c

theorem stateOf_stateByte (d : Bank 4) : stateOf (stateByte d) = d :=
  Bank.ext_get fun c => (Bank.get_ofFn _ c).trans (packBytes_lanes (d.get c))

theorem invSubBytes_subBytes (d : Bank 4) : invSubBytes (subBytes d) = d := by
  simp only [invSubBytes, subBytes, stateByte_stateOf, invSbox_sbox]
  exact stateOf_stateByte d

theorem invShiftRows_shiftRows (d : Bank 4) : invShiftRows (shiftRows d) = d := by
  simp only [invShiftRows, shiftRows, stateByte_stateOf, sub_add_cancel]
  exact stateOf_stateByte d

theorem addRoundKey_addRoundKey (w : Bank 60) (i : Nat) (d : Bank 4) :
    addRoundKey w i (addRoundKey w i d) = d := by
  refine Bank.ext_get fun c => ?_
  rw [addRoundKey, addRoundKey, Bank.get_ofFn, Bank.get_ofFn, BitVec.xor_assoc, BitVec.xor_self, BitVec.xor_zero]

/-- Circulant matrices multiply as their first rows do modulo x^4 + 1. -/
theorem mixWith_mixWith (a0 a1 a2 a3 b0 b1 b2 b3 : Byte) (d : Bank 4) :
    mixWith a0 a1 a2 a3 (mixWith b0 b1 b2 b3 d) =
      mixWith (gfmul a0 b0 ^^^ gfmul a1 b3 ^^^ gfmul a2 b2 ^^^ gfmul a3 b1)
        (gfmul a0 b1 ^^^ gfmul a1 b0 ^^^ gfmul a2 b3 ^^^ gfmul a3 b2)
        (gfmul a0 b2 ^^^ gfmul a1 b1 ^^^ gfmul a2 b0 ^^^ gfmul a3 b3)
        (gfmul a0 b3 ^^^ gfmul a1 b2 ^^^ gfmul a2 b1 ^^^ gfmul a3 b0) d := by
  refine congrArg stateOf (funext₂ fun r c => ?_)
  have hrow : r + 1 + 1 = r + 2 ∧ r + 1 + 2 = r + 3 ∧ r + 1 + 3 = r ∧ r + 2 + 1 = r + 3 ∧ r + 2 + 2 = r ∧
      r + 2 + 3 = r + 1 ∧ r + 3 + 1 = r ∧ r + 3 + 2 = r + 1 ∧ r + 3 + 3 = r + 2 := by
    revert r
    decide
  simp only [mixWith, stateByte_stateOf, gfmul_xor, xor_gfmul, gfmul_assoc, hrow]
  ac_rfl

theorem mixWith_one (d : Bank 4) : mixWith 1#8 0#8 0#8 0#8 d = d := by
  simp only [mixWith, one_gfmul, zero_gfmul, BitVec.xor_zero]
  exact stateOf_stateByte d

/-- The first rows of 42_aes R208 and R209 have the product (01, 00, 00, 00). -/
theorem invMixColumns_mixColumns (d : Bank 4) : invMixColumns (mixColumns d) = d :=
  (mixWith_mixWith _ _ _ _ _ _ _ _ d).trans (mixWith_one d)

/-! The ciphers (42_aes R211, R212). -/

/-- The rounds of the inverse cipher undo those of the cipher between one SubBytes and ShiftRows and the next. -/
theorem decRounds_encRounds (w : Bank 60) (k : Nat) (d : Bank 4) :
    decRounds w k (shiftRows (subBytes (encRounds w k d))) = shiftRows (subBytes d) := by
  induction k with
  | zero => rfl
  | succ k ih =>
    rw [decRounds, encRounds, invShiftRows_shiftRows, invSubBytes_subBytes, addRoundKey_addRoundKey,
      invMixColumns_mixColumns, ih]

theorem invCipher_cipher (w : Bank 60) (nr : Nat) (d : Bank 4) : invCipher w nr (cipher w nr d) = d := by
  rw [invCipher, cipher, addRoundKey_addRoundKey, decRounds_encRounds, invShiftRows_shiftRows, invSubBytes_subBytes,
    addRoundKey_addRoundKey]

/-! A command performed on an idle engine, and commands in sequence (10_state R62, 60_exceptions R323). -/

theorem perform_accepted {i : Instr} {s : State} (hidle : s.ctl.seq = .idle) (hchecks : commandChecks i s = none) :
    perform i s = .next (commandEffect i (s.accept i)).finish := by
  rw [perform, exec_accepts hidle hchecks]
  exact (if_pos rfl).trans (exec_busy i _ rfl)

theorem performAll_append {is js : List Instr} {s t : State} (h : performAll is s = .next t) :
    performAll (is ++ js) s = performAll js t := by
  induction is generalizing s with
  | nil =>
    cases h
    rfl
  | cons i is ih =>
    rw [performAll] at h
    rw [List.cons_append, performAll]
    split at h
    · exact ih h
    · next hstop => exact absurd h (hstop t)

theorem performAll_singleton (i : Instr) (s : State) : performAll [i] s = perform i s := by
  rw [performAll]
  split
  · next h => exact h.symm
  · rfl

/-! The AES commands as transforms of AES_DATA (42_aes R214-R222, R225). -/

/-- On every idle engine whose AES registers but AES_DATA are those of `a`, performing `is` leaves an idle engine with
`f` of AES_DATA and those same registers. -/
def Transforms (a : AesUnit) (is : List Instr) (f : Bank 4 → Bank 4) : Prop :=
  ∀ (s : State) (d : Bank 4), s.ctl.seq = .idle → s.aes = { a with data := d } →
    ∃ t, performAll is s = .next t ∧ t.ctl.seq = .idle ∧ t.aes = { a with data := f d }

section
variable {a : AesUnit} {f g : Bank 4 → Bank 4}

theorem Transforms.nil : Transforms a [] id := fun s _ hidle haes => ⟨s, rfl, hidle, haes⟩

theorem Transforms.append {is js : List Instr} (hf : Transforms a is f) (hg : Transforms a js g) :
    Transforms a (is ++ js) (g ∘ f) := by
  intro s d hidle haes
  obtain ⟨t, ht, hidleT, haesT⟩ := hf s d hidle haes
  rw [performAll_append ht]
  exact hg t (f d) hidleT haesT

theorem Transforms.cons {i : Instr} {is : List Instr} (hf : Transforms a [i] f) (hg : Transforms a is g) :
    Transforms a (i :: is) (g ∘ f) := hf.append hg

theorem Transforms.exists_perform {i : Instr} {s : State} (hf : Transforms s.aes [i] f) (hidle : s.ctl.seq = .idle) :
    ∃ t, perform i s = .next t ∧ t.ctl.seq = .idle ∧ t.aes = { s.aes with data := f s.aes.data } := by
  rw [← performAll_singleton]
  exact hf s s.aes.data hidle rfl

/-- A command transforms AES_DATA when its checks pass and its effect is a write of AES_DATA. -/
theorem transforms_command {i : Instr} (value : AesUnit → Bank 4)
    (hchecks : ∀ s d, s.aes = { a with data := d } → commandChecks i s = none)
    (heffect : ∀ s, commandEffect i s = s.withAesData (value s.aes)) :
    Transforms a [i] fun d => value { a with data := d } := by
  intro s d hidle haes
  rw [performAll_singleton, perform_accepted hidle (hchecks s d haes), heffect]
  refine ⟨_, rfl, rfl, ?_⟩
  simp [haes]

/-- The commands without checks transform AES_DATA whatever the key. -/
theorem transforms_unchecked {i : Instr} (hchecks : commandChecks i = noChecks)
    (heffect : ∀ s, commandEffect i s = s.withAesData (f s.aes.data)) : Transforms a [i] f :=
  transforms_command (fun u => f u.data) (fun s _ _ => congrFun hchecks s) heffect

theorem transforms_aesSubBytes : Transforms a [.aesSubBytes] subBytes := transforms_unchecked rfl fun _ => rfl

theorem transforms_aesInvSubBytes : Transforms a [.aesInvSubBytes] invSubBytes := transforms_unchecked rfl fun _ => rfl

theorem transforms_aesShiftRows : Transforms a [.aesShiftRows] shiftRows := transforms_unchecked rfl fun _ => rfl

theorem transforms_aesInvShiftRows : Transforms a [.aesInvShiftRows] invShiftRows :=
  transforms_unchecked rfl fun _ => rfl

theorem transforms_aesMixColumns : Transforms a [.aesMixColumns] mixColumns := transforms_unchecked rfl fun _ => rfl

theorem transforms_aesInvMixColumns : Transforms a [.aesInvMixColumns] invMixColumns :=
  transforms_unchecked rfl fun _ => rfl

end

section
variable {a : AesUnit} (hkey : a.keyValid = true)
include hkey

theorem transforms_aesEnc : Transforms a [.aesEnc] (cipher a.rk a.nr.toNat) :=
  transforms_command (fun u => cipher u.rk u.nr.toNat u.data)
    (fun _ _ haes => keyCheck_eq_none (haes ▸ hkey)) fun _ => rfl

theorem transforms_aesDec : Transforms a [.aesDec] (invCipher a.rk a.nr.toNat) :=
  transforms_command (fun u => invCipher u.rk u.nr.toNat u.data)
    (fun _ _ haes => keyCheck_eq_none (haes ▸ hkey)) fun _ => rfl

theorem transforms_aesAddRoundKey {round : Nat} (hround : round ≤ a.nr.toNat) :
    Transforms a [.aesAddRoundKey round] (addRoundKey a.rk round) :=
  transforms_command (fun u => addRoundKey u.rk round u.data)
    (fun _ _ haes => roundChecks_eq_none (haes ▸ hkey) (haes ▸ hround)) fun _ => rfl

theorem transforms_encRoundCommands {i : Nat} (hi : i ≤ a.nr.toNat) :
    Transforms a (encRoundCommands i) fun d => addRoundKey a.rk i (mixColumns (shiftRows (subBytes d))) :=
  (transforms_aesSubBytes.cons <| transforms_aesShiftRows.cons <| transforms_aesMixColumns.cons <|
    transforms_aesAddRoundKey hkey hi :)

theorem transforms_decRoundCommands {i : Nat} (hi : i ≤ a.nr.toNat) :
    Transforms a (decRoundCommands i) fun d => invMixColumns (addRoundKey a.rk i (invSubBytes (invShiftRows d))) :=
  (transforms_aesInvShiftRows.cons <| transforms_aesInvSubBytes.cons <|
    (transforms_aesAddRoundKey hkey hi).cons transforms_aesInvMixColumns :)

/-- Round `k + 1` follows the rounds 1 to `k`. -/
theorem transforms_encRounds {k : Nat} (hk : k ≤ a.nr.toNat) :
    Transforms a ((List.range k).flatMap fun j => encRoundCommands (j + 1)) (encRounds a.rk k) := by
  induction k with
  | zero => exact .nil
  | succ k ih =>
    rw [List.range_succ, List.flatMap_append, List.flatMap_singleton]
    exact (ih (by omega)).append (transforms_encRoundCommands hkey hk)

/-- Round `k + 1` precedes the rounds `k` downto 1. -/
theorem transforms_decRounds {k : Nat} (hk : k ≤ a.nr.toNat) :
    Transforms a ((List.range k).flatMap fun j => decRoundCommands (k - j)) (decRounds a.rk k) := by
  induction k with
  | zero => exact .nil
  | succ k ih =>
    rw [List.range_succ_eq_map, List.flatMap_cons, List.flatMap_map]
    simp only [Nat.succ_eq_add_one, Nat.add_sub_add_right]
    exact (transforms_decRoundCommands hkey hk).append (ih (by omega))

theorem transforms_encPipeline : Transforms a (encPipeline a.nr.toNat) (cipher a.rk a.nr.toNat) :=
  ((transforms_aesAddRoundKey hkey (Nat.zero_le _)).append (transforms_encRounds hkey (Nat.sub_le _ 1))).append <|
    transforms_aesSubBytes.cons <| transforms_aesShiftRows.cons <| transforms_aesAddRoundKey hkey le_rfl

theorem transforms_decPipeline : Transforms a (decPipeline a.nr.toNat) (invCipher a.rk a.nr.toNat) :=
  ((transforms_aesAddRoundKey hkey le_rfl).append (transforms_decRounds hkey (Nat.sub_le _ 1))).append <|
    transforms_aesInvShiftRows.cons <| transforms_aesInvSubBytes.cons <|
      transforms_aesAddRoundKey hkey (Nat.zero_le _)

end

/-- Settles O50: AES_ENC leaves the schedule, with which the inverse cipher undoes the cipher. -/
theorem aesRoundTrip : Obligations.AesRoundTrip := by
  intro s hidle hkey
  obtain ⟨t, ht, hidleT, haesT⟩ := (transforms_aesEnc hkey).exists_perform hidle
  have hkeyT : t.aes.keyValid = true := by rw [haesT, hkey]
  obtain ⟨u, hu, -, haesU⟩ := (transforms_aesDec hkeyT).exists_perform hidleT
  refine ⟨t, u, ht, hu, ?_⟩
  rw [haesU, haesT]
  exact invCipher_cipher _ _ _

/-- Two performances that transform AES_DATA alike leave the same AES_DATA. -/
theorem Transforms.same_data {s : State} {is : List Instr} {i : Instr} {f : Bank 4 → Bank 4}
    (hall : Transforms s.aes is f) (hone : Transforms s.aes [i] f) (hidle : s.ctl.seq = .idle) :
    ∃ t u, performAll is s = .next t ∧ perform i s = .next u ∧ t.aes.data = u.aes.data := by
  obtain ⟨t, ht, -, haesT⟩ := hall s s.aes.data hidle rfl
  obtain ⟨u, hu, -, haesU⟩ := hone.exists_perform hidle
  exact ⟨t, u, ht, hu, by rw [haesT, haesU]⟩

/-- Settles O51: each sequence composes to the cipher's own transform of AES_DATA. -/
theorem pipelineEqualsCipher : Obligations.PipelineEqualsCipher := fun _ hidle hkey _ =>
  ⟨(transforms_encPipeline hkey).same_data (transforms_aesEnc hkey) hidle,
    (transforms_decPipeline hkey).same_data (transforms_aesDec hkey) hidle⟩

end Sys2Proof.Machine
end

section
/-! PROOFS. Host arithmetic: the extended Euclidean algorithm and the modular inverse (48_host_library R285, R286). -/

namespace Sys2Proof.Machine

/-- Each turn keeps the gcd of the two remainders and makes the second smaller, so `r1 + 1` turns reach the gcd. -/
theorem euclidLoop_gcd (k r0 r1 : Nat) (s0 s1 t0 t1 : Int) (h : r1 < k) :
    (euclidLoop k r0 r1 s0 s1 t0 t1).1 = Nat.gcd r0 r1 := by
  induction k generalizing r0 r1 s0 s1 t0 t1 with
  | zero => omega
  | succ k ih =>
    unfold euclidLoop
    split
    case isTrue hzero => simp [hzero]
    case isFalse hne =>
      have hlt : r0 % r1 < r1 := Nat.mod_lt _ (Nat.pos_of_ne_zero hne)
      rw [← Nat.mod_eq_sub_div_mul, ih _ _ _ _ _ _ (by omega), Nat.gcd_comm r1, ← Nat.gcd_rec, Nat.gcd_comm]

/-- Each remainder stays the combination of `a` and `b` its coefficients say, however many turns the loop takes. -/
theorem euclidLoop_bezout {a b : Int} (k r0 r1 : Nat) (s0 s1 t0 t1 : Int) (h0 : a * s0 + b * t0 = r0)
    (h1 : a * s1 + b * t1 = r1) :
    a * (euclidLoop k r0 r1 s0 s1 t0 t1).2.1 + b * (euclidLoop k r0 r1 s0 s1 t0 t1).2.2 =
      (euclidLoop k r0 r1 s0 s1 t0 t1).1 := by
  induction k generalizing r0 r1 s0 s1 t0 t1 with
  | zero => exact h0
  | succ k ih =>
    unfold euclidLoop
    split
    case isTrue => exact h0
    case isFalse =>
      refine ih _ _ _ _ _ _ h1 ?_
      push_cast [Nat.div_mul_le_self]
      linear_combination h0 - ((r0 : Int) / r1) * h1

theorem extendedEuclid_gcd (a b : Nat) : (extendedEuclid a b).1 = Nat.gcd a b :=
  euclidLoop_gcd _ _ _ _ _ _ _ (Nat.lt_succ_self b)

theorem extendedEuclid_bezout (a b : Nat) :
    (a : Int) * (extendedEuclid a b).2.1 + (b : Int) * (extendedEuclid a b).2.2 = ((extendedEuclid a b).1 : Int) :=
  euclidLoop_bezout _ _ _ _ _ _ _ (by simp) (by simp)

/-- Settles O54: the loop ends at the gcd, and every remainder of it is a combination of a and b. -/
theorem extendedEuclidBezout : Obligations.ExtendedEuclidBezout := fun a b =>
  ⟨extendedEuclid_gcd a b, extendedEuclid_bezout a b⟩

/-- Reducing the first argument modulo the second is the first step of Euclid's algorithm: the gcd stays. -/
theorem extendedEuclid_mod_gcd (a m : Nat) : (extendedEuclid (a % m) m).1 = Nat.gcd a m := by
  rw [extendedEuclid_gcd, ← Nat.gcd_rec, Nat.gcd_comm]

theorem modInverse_zero (a : Nat) : modInverse a 0 = .error .noInverse := if_pos rfl

theorem modInverse_of_ne_zero {m : Nat} (a : Nat) (h : m ≠ 0) :
    modInverse a m =
      if Nat.gcd a m ≠ 1 then .error .noInverse else .ok ((extendedEuclid (a % m) m).2.1 % (m : Int)).toNat := by
  simp only [modInverse, if_neg h, extendedEuclid_mod_gcd]

theorem toNat_emod_lt {m : Nat} (x : Int) (h : m ≠ 0) : (x % (m : Int)).toNat < m := by
  have := Int.emod_lt_of_pos x (b := m) (by omega)
  omega

/-- The first coefficient, reduced modulo `m`, is the inverse: modulo `m` the second term vanishes. -/
theorem mul_toNat_emod_of_bezout {a m : Nat} {x y : Int} (hm : m ≠ 0) (h : ((a % m : Nat) : Int) * x + m * y = 1) :
    a * (x % (m : Int)).toNat % m = 1 % m := by
  have hcast : ((x % (m : Int)).toNat : Int) = x % m := Int.toNat_of_nonneg (Int.emod_nonneg _ (by omega))
  have hmod : (a : Int) * (x % m) ≡ 1 [ZMOD m] :=
    calc (a : Int) * (x % m) ≡ ((a % m : Nat) : Int) * x [ZMOD m] := by
          rw [Int.natCast_mod]
          exact (Int.mod_modEq _ _).symm.mul (Int.mod_modEq _ _)
      _ = 1 + m * -y := by linear_combination h
      _ ≡ 1 [ZMOD m] := Int.modEq_add_fac_self
  zify
  rw [hcast]
  exact hmod

/-- Settles O55: the first Bezout coefficient of a mod m and m, reduced modulo m, is the inverse where their gcd is 1. -/
theorem modInverseIsInverse : Obligations.ModInverseIsInverse := by
  refine fun a m => ⟨?_, fun hm hgcd => ?_⟩
  · rintro (rfl | hgcd)
    · exact modInverse_zero a
    · obtain rfl | hm := eq_or_ne m 0
      · exact modInverse_zero a
      · rw [modInverse_of_ne_zero a hm, if_pos hgcd]
  · have hbezout := extendedEuclid_bezout (a % m) m
    rw [extendedEuclid_mod_gcd, hgcd] at hbezout
    refine ⟨_, ?_, toNat_emod_lt _ hm, mul_toNat_emod_of_bezout hm hbezout⟩
    rw [modInverse_of_ne_zero a hm, if_neg (not_not.2 hgcd)]

end Sys2Proof.Machine
end

section
/-! PROOFS. The padding of a message to whole blocks (48_host_library R292). -/

namespace Sys2Proof.Machine

theorem padZeros_lt (len : Nat) : padZeros len < 64 := Nat.mod_lt _ (by decide)

theorem length_add_padZeros (len : Nat) : (len + 1 + padZeros len) % 64 = 56 := by
  unfold padZeros
  omega

/-- Dropping a byte, 8 bits, is dividing by 256. -/
theorem be64_eq_bytes (x : Nat) : be64 x = (List.range 8).map fun k => BitVec.ofNat 8 (x / 256 ^ (7 - k)) :=
  List.map_congr_left fun k _ => by rw [pow_mul]; rfl

theorem pad_of_le {m : List Byte} (h : 2 ^ 64 ≤ 8 * m.length) : pad m = .error .hashTooLarge := if_pos h

theorem pad_of_lt {m : List Byte} (h : 8 * m.length < 2 ^ 64) :
    pad m = .ok (m ++ [0x80] ++ List.replicate (padZeros m.length) 0 ++ be64 (8 * m.length)) :=
  if_neg (Nat.not_le.2 h)

/-- Settles O56: the zeros are the `padZeros` of the message's length, and the last 8 bytes are its `be64`. -/
theorem paddingFillsBlocks : Obligations.PaddingFillsBlocks := by
  refine fun m => ⟨pad_of_le, fun hfits => ⟨padZeros m.length, padZeros_lt _, length_add_padZeros _, ?_⟩⟩
  rw [pad_of_lt hfits, be64_eq_bytes]

end Sys2Proof.Machine
end

section
/-! PROOFS. Rejections, and the answer of every command (60_exceptions R321, R322, R325). -/

namespace Sys2Proof.Machine

/-- Settles O10: the rejection writes `ErrCode.code`, which is the number R321 gives each name. -/
theorem rejectionEffect : Obligations.RejectionEffect := by
  intro s opc code
  rw [State.reject_eq]
  cases code <;> rfl

/-- Settles O12: a running command completes, and any other is submitted. -/
theorem everyCommandAnswersNext : Obligations.EveryCommandAnswersNext := exec_answers

end Sys2Proof.Machine
end

section
/-! PROOFS. Progress of the sequencer: a run uses up its turns one by one, and past the last turn a busy sequencer completes (70_reset_and_hazards R372). -/

namespace Sys2Proof.Machine

/-! Runs of several steps, and the turns they use up. -/

theorem runSteps_succ {s t : State} (k : Nat) (h : step s = .next t) : runSteps (k + 1) s = runSteps k t := by
  simp only [runSteps, h]

/-- A run of `k + 1` steps that answers is a step and a run of `k` steps. -/
theorem runSteps_succ_next {k : Nat} {s u : State} (h : runSteps (k + 1) s = .next u) :
    ∃ t, step s = .next t ∧ runSteps k t = .next u := by
  cases hstep : step s with
  | next t => exact ⟨t, rfl, (runSteps_succ k hstep).symm.trans h⟩
  | fault f => simp [runSteps, hstep] at h
  | refused r => simp [runSteps, hstep] at h

/-- A run is extended by a step at its end. -/
theorem runSteps_append_step {k : Nat} {s t u : State} (h : runSteps k s = .next t) (hstep : step t = .next u) :
    runSteps (k + 1) s = .next u := by
  induction k generalizing s with
  | zero =>
    cases h
    exact runSteps_succ 0 hstep
  | succ k ih =>
    obtain ⟨s', hfirst, hrest⟩ := runSteps_succ_next h
    exact (runSteps_succ (k + 1) hfirst).trans (ih hrest)

theorem step_turns {s t : State} (h : step s = .next t) : t.turns = s.turns.tail := by
  obtain ⟨hnil, e⟩ | ⟨a, rest, hcons, e⟩ := step_eq s
  · rw [(turnStep_keepsSetup (e.symm.trans h)).turns, hnil, List.tail_nil]
  · rw [(turnStep_keepsSetup (e.symm.trans h)).turns, hcons, List.tail_cons]

theorem runSteps_turns {k : Nat} {s t : State} (h : runSteps k s = .next t) : t.turns = s.turns.drop k := by
  induction k generalizing s with
  | zero =>
    cases h
    rfl
  | succ k ih =>
    obtain ⟨s', hfirst, hrest⟩ := runSteps_succ_next h
    rw [ih hrest, step_turns hfirst, List.drop_tail]

/-! The sequencer's step ends what it runs (10_state R62, 70_reset_and_hazards R362). -/

theorem sequencerStep_becomes_idle (s : State) : ∃ t, sequencerStep s = .next t ∧ t.ctl.seq = .idle := by
  cases hq : s.ctl.seq with
  | idle => exact ⟨s, sequencerStep_idle hq, hq⟩
  | busy i => exact ⟨_, (sequencerStep_busy hq).trans (exec_completes hq), rfl⟩
  | tblgenReset => exact ⟨_, sequencerStep_tblgenReset hq, rfl⟩

/-- Past the last turn a busy sequencer moves (notes/assumptions/3.md). -/
theorem step_becomes_idle {s : State} (hturns : s.turns = []) (hbusy : s.ctl.seq ≠ .idle) :
    ∃ t, step s = .next t ∧ t.ctl.seq = .idle := by
  rw [step_of_turns_nil hturns, State.nextTurn_of_busy hbusy]
  exact sequencerStep_becomes_idle s

/-- Settles O44: where the turns are used up the sequencer is idle, or the next step is its completion. -/
theorem sequencerBecomesIdle : Obligations.SequencerBecomesIdle := by
  intro s hrun
  obtain ⟨t, ht⟩ := hrun s.turns.length le_rfl
  by_cases hidle : t.ctl.seq = .idle
  · exact ⟨s.turns.length, t, Nat.le_succ _, ht, hidle⟩
  · have hturns : t.turns = [] := by rw [runSteps_turns ht, List.drop_length]
    obtain ⟨u, hstep, hu⟩ := step_becomes_idle hturns hidle
    exact ⟨s.turns.length + 1, u, le_rfl, runSteps_append_step ht hstep, hu⟩

end Sys2Proof.Machine
end
